-- ==== Sys2Proof/Word.lean ====
section
/-!
DEFINITION. The word types of the block (spec 00_scope.md R9, R10): bytes, 32-bit counters, 40-bit local
bitmasks, virtual bitmasks, and a fixed record of one value per slot.
-/

namespace Sys2Proof

/-- An unsigned byte. -/
abbrev Byte := BitVec 8

/-- A 32-bit value: counters, reported addresses, register values, settle delays (R9, R25, R30). -/
abbrev Word := BitVec 32

/-- A local bitmask: bit `l-1` stands for local pin `l` (R10, R62). -/
abbrev LMask := BitVec 40

/-- A virtual bitmask: bit `p-1` stands for virtual pin `p` (R10, R61). The block's masks are `N = 40 * NSLOTS`
bits wide with `NSLOTS` in `1..4`; they are held in the widest case, 160 bits, with the bits from `N` on clear. -/
abbrev VMask := BitVec 160

/-- A virtual pin: "an integer `1..N`" (R13). Configuration may name integers outside that range (R23). -/
abbrev VPin := Int

/-- One value for each of the four slots the enumeration can have (R8: `NSLOTS` in `1..4`). -/
structure PerSlot (α : Type) where
  s0 : α
  s1 : α
  s2 : α
  s3 : α
deriving DecidableEq, Repr

/-- The value of slot `k`; the slots are `0..3`, every other index reads slot 3. -/
def PerSlot.get {α : Type} (v : PerSlot α) : Nat → α
  | 0 => v.s0
  | 1 => v.s1
  | 2 => v.s2
  | _ => v.s3

/-- Replace the value of slot `k`; an index past 3 replaces nothing. -/
def PerSlot.set {α : Type} (v : PerSlot α) (k : Nat) (a : α) : PerSlot α :=
  match k with
  | 0 => { v with s0 := a }
  | 1 => { v with s1 := a }
  | 2 => { v with s2 := a }
  | 3 => { v with s3 := a }
  | _ => v

/-- The record whose slot `k` holds `f k`. -/
def PerSlot.tabulate {α : Type} (f : Nat → α) : PerSlot α :=
  { s0 := f 0, s1 := f 1, s2 := f 2, s3 := f 3 }

end Sys2Proof
end

