-- ==== Sys2Proof/Machine/Operands.lean ====
section
/-!
DEFINITION. The field types of commands and responses (spec 30_encoding.md R102 to R104, 20_memory.md R67 to
R69): little-endian byte fields, virtual and local masks, and masks built from a set of pins.
-/

namespace Sys2Proof.Machine

/-- The unsigned value of a little-endian field (R69, R102). -/
def leNat : List Byte → Nat
  | [] => 0
  | b :: bs => b.toNat + 256 * leNat bs

/-- The `n` bytes of a value, byte 0 first, holding bits 7..0 (R69, R102). -/
def leBytes : Nat → Nat → List Byte
  | 0, _ => []
  | n + 1, v => BitVec.ofNat 8 v :: leBytes n (v / 256)

/-- The unsigned value whose bit `i` is the `i`-th element, bit 0 first (R68). -/
def bitsToNat : List Bool → Nat
  | [] => 0
  | b :: bs => b.toNat + 2 * bitsToNat bs

/-- The mask whose bit `k` is `P k` for `k < n`, other bits clear: `mask(S)` of R10 when `P k` says that pin
`k+1` is in `S`. -/
def maskOf : Nat → (Nat → Bool) → VMask
  | 0, _ => 0#160
  | n + 1, P => maskOf n P ||| (if P n then 1#160 <<< n else 0#160)

/-- The local mask with exactly bit `l-1` set: local pin `l` (R10, R62). -/
def localBit (l : Nat) : LMask := 1#40 <<< (l - 1)

/-- Read a `VMASK`: mask bit `k` is bit `k mod 8` of byte `k / 8` (R103). -/
def vmaskOfBytes (bs : List Byte) : VMask := BitVec.ofNat 160 (leNat bs)

/-- Lay out a `VMASK` of `5 * nslots` bytes (R102, R103). -/
def vmaskBytes (nslots : Nat) (m : VMask) : List Byte := leBytes (5 * nslots) m.toNat

/-- Lay out an `LMASK` (R104). -/
def lmaskBytes (m : LMask) : List Byte := leBytes 5 m.toNat

/-- Read `LMASKS`: the mask of slot `s` is bytes `5s..5s+4` (R102, R104); slots that do not exist have none. -/
def lmasksOfBytes (nslots : Nat) (bs : List Byte) : PerSlot LMask :=
  PerSlot.tabulate fun s =>
    if s < nslots then BitVec.ofNat 40 (leNat ((bs.drop (5 * s)).take 5)) else 0#40

/-- Lay out `LMASKS`, slot 0 first (R102). -/
def lmasksBytes (nslots : Nat) (v : PerSlot LMask) : List Byte :=
  (List.range nslots).flatMap fun s => lmaskBytes (v.get s)

end Sys2Proof.Machine
end

