-- ==== Sys2Proof/Config.lean ====
section
/-!
DEFINITION. The block's parameters (spec 00_scope.md R8, 10_state.md R20 to R25), the reference values
`State.reset` uses (notes/assumptions/1.md), and the oracles of 92_eei_decisions.md D45 past their scripts.
-/

namespace Sys2Proof

/-- One entry `(vpin, slot, local)` of the pin table; every field is an integer of any size (R21). -/
structure Entry where
  vpin : VPin
  slot : Int
  localPin : Int
deriving DecidableEq, Repr

/-- One always-driven pin with its fixed level (R23). -/
structure FixedPin where
  pin : VPin
  level : Bool
deriving DecidableEq, Repr

/-- The RoleMap (R23). `alwaysDriven` is the finite map ADP, its pins strictly rising (`Config.wf`). -/
structure RoleMap where
  addressBits : List VPin
  dataBits : List VPin
  rwPin : VPin
  clockPin : VPin
  alwaysDriven : List FixedPin
deriving DecidableEq, Repr

/-- The configuration: everything R20 lists, fixed at reset. `bound` has bit `s` set iff slot `s` is in
`BOUND` (R22, R38 CFG_BOUND); `rwReadLevel` is the `rw_pin` level that means a read (R25). -/
structure Config where
  nslots : Nat
  registry : List Entry
  bound : BitVec 4
  roleMap : RoleMap
  rwReadLevel : Bool
  tTri : Word
  tClk : Word
  mem0 : List (Nat × Byte)
deriving DecidableEq, Repr

/-- `N`, the number of virtual pins (R8, R61). -/
def Config.numPins (c : Config) : Nat := 40 * c.nslots

/-- `MB`, the bytes of a `VMASK` (R102). -/
def Config.maskBytes (c : Config) : Nat := 5 * c.nslots

/-- `s` is in `BOUND`: one of the slots `0..NSLOTS-1` that holds a device handle (R22). -/
def Config.isBound (c : Config) (s : Nat) : Bool := decide (s < c.nslots) && c.bound.getLsbD s

/-- The bound slots in increasing slot index: the order of `for s in BOUND ascending` (R11). -/
def Config.boundSlots (c : Config) : List Nat := [0, 1, 2, 3].filter c.isBound

/-- `AW`, the address width (R8). -/
def Config.addrWidth (c : Config) : Nat := c.roleMap.addressBits.length

/-- The values R8, R22 and R23 allow: `NSLOTS` in `1..4`, `BOUND` within the slots, the always-driven map given
once per pin in rising order. The registry and the RoleMap's pins are checked by reset itself (R321, R323). -/
def Config.wf (c : Config) : Bool :=
  decide (1 ≤ c.nslots) && decide (c.nslots ≤ 4) &&
  [0, 1, 2, 3].all (fun s => !c.bound.getLsbD s || decide (s < c.nslots)) &&
  decide ((c.roleMap.alwaysDriven.map FixedPin.pin).Pairwise (· < ·))

/-- `R_LIN` of D3 for `n` pins: `p -> (slot (p-1)/40, local ((p-1) mod 40) + 1)`. -/
def linearRegistry (n : Nat) : List Entry :=
  (List.range n).map fun (k : Nat) =>
    { vpin := Int.ofNat (k + 1), slot := Int.ofNat (k / 40), localPin := Int.ofNat (k % 40 + 1) }

/-- The RoleMap of the named configuration K1 of 95_test_vectors.md. -/
def RoleMap.k1 : RoleMap :=
  { addressBits := [1, 2, 3, 4], dataBits := [5, 6, 7, 8, 9, 10, 11, 12], rwPin := 13, clockPin := 14,
    alwaysDriven := [{ pin := 15, level := true }] }

/-- The parameters `State.reset` takes: the reference system's four slots and R8's defaults where R8 gives them;
the OPEN parameters are DESIGN CHOICE (notes/assumptions/1.md). No statement rests on them. -/
def Config.reference : Config :=
  { nslots := 4, registry := linearRegistry 160, bound := 15#4, roleMap := RoleMap.k1, rwReadLevel := true,
    tTri := 0#32, tClk := 0#32, mem0 := [] }

/-- Free value: whether the `n`-th answer drawn, past the scripted ones, is a `TransportError` (R73, D45, U5). -/
opaque Config.freeTransport : Nat → Bool

/-- Free value: the levels the target presents at the `n`-th draw, past the scripted ones (R72, D45, U4). -/
opaque Config.freeLevels : Nat → LMask

/-- Free value: the bits drawn for pins whose level no source gives, at the `n`-th draw (R72, D24, U3). -/
opaque Config.freeDraw : Nat → LMask

/-- Free value: whether the host port moves at the `n`-th draw when both agents can (R258, D17, D45, U9, U10). -/
opaque Config.freeSchedule : Nat → Bool

end Sys2Proof
end

