-- ==== Sys2Proof/Syntax.lean ====
section
/-!
DEFINITION. The block's commands (spec 30_encoding.md R105), the registers `READ_REG` names (10_state.md R38)
and the pseudo-commands (30_encoding.md R112).
-/

namespace Sys2Proof

/-- The registers of R38, in the order of their numbers `0x00..0x1A`. -/
inductive Reg where
  | mode | phase | flags | lastStatus | frStatus | errPin | errSlot | errPrim | errSrc
  | lastAddr | lastValue | lastDir | txnCount | seq | rmStatus | rmErrPin | rmErrSlot
  | cfgNslots | cfgN | cfgBound | cfgAw | cfgRwReadLevel | cfgTTri | cfgTClk
  | curAddr | curValue | curDir
deriving DecidableEq, Repr

/-- One command: one constructor per row of spec/opcode_table.json (R105). Operands are typed as R102 says;
an operand value that R108 forbids and the type cannot exclude is excluded by `Instr.wellFormed`. -/
inductive Instr where
  /-- `RESOLVE vpin`, any `u16` (40_registry.md R141). -/
  | resolve (vpin : BitVec 16)
  /-- `PINS_FOR_SLOT slot` (40_registry.md R143). -/
  | pinsForSlot (slot : Byte)
  /-- `FAN_OUT mask` (41_virtual_bus.md R161). -/
  | fanOut (mask : VMask)
  /-- `AGGREGATE per_slot`, one local mask per slot (41_virtual_bus.md R163). -/
  | aggregate (perSlot : PerSlot LMask)
  /-- `DRIVE mask` (41_virtual_bus.md R165). -/
  | drive (mask : VMask)
  /-- `TRI_STATE mask` (41_virtual_bus.md R166). -/
  | triState (mask : VMask)
  /-- `READ` (41_virtual_bus.md R167). -/
  | read
  /-- `ASSIGN_GROUND mask` (41_virtual_bus.md R168). -/
  | assignGround (mask : VMask)
  /-- `ASSIGN_SUPPLY_PINS mask` (41_virtual_bus.md R169). -/
  | assignSupplyPins (mask : VMask)
  /-- `SET_SUPPLY_VOLTAGE level`, the two's complement `i32` (41_virtual_bus.md R170). -/
  | setSupplyVoltage (level : Word)
  /-- `ENABLE_SUPPLY on` (41_virtual_bus.md R171). -/
  | enableSupply (on : Bool)
  /-- `BUS_CYCLE` (42_bus_cycle.md R200). -/
  | busCycle
  /-- `FREE_RUN_START` (43_control.md R252). -/
  | freeRunStart
  /-- `FREE_RUN_CANCEL` (43_control.md R254). -/
  | freeRunCancel
  /-- `READ_REG reg` (43_control.md R257). -/
  | readReg (reg : Reg)
deriving DecidableEq, Repr

/-- The pseudo-commands of R112. `powerOn` takes the level and the sets of supply and ground pins as masks. -/
inductive Pseudo where
  | floatAll
  | setup
  | powerOn (level : Word) (supply ground : VMask)
  | powerOff
  | step (count : Nat)
deriving DecidableEq, Repr

end Sys2Proof
end

