-- ==== Sys2Proof/WellFormed.lean ====
section
/-!
DEFINITION. Which commands a block with a given number of slots can be sent (spec 30_encoding.md R102, R108).
-/

namespace Sys2Proof

/-- A `VMASK` has bits for the pins `1..N` only (R102, U23). -/
def VMask.fits (nslots : Nat) (m : VMask) : Bool := decide (m.toNat < 2 ^ (40 * nslots))

/-- `LMASKS` carries `NSLOTS` local masks (R102): the masks of slots that do not exist are empty. -/
def lmasksFit (nslots : Nat) (v : PerSlot LMask) : Bool :=
  [0, 1, 2, 3].all fun s => decide (s < nslots) || v.get s == 0#40

/-- The operand constraints of R108 that the operand's type does not carry already: a slot of the enumeration,
and masks no wider than the block. -/
def Instr.wellFormed (nslots : Nat) : Instr → Bool
  | .pinsForSlot slot => decide (slot.toNat < nslots)
  | .fanOut m => VMask.fits nslots m
  | .aggregate v => lmasksFit nslots v
  | .drive m => VMask.fits nslots m
  | .triState m => VMask.fits nslots m
  | .assignGround m => VMask.fits nslots m
  | .assignSupplyPins m => VMask.fits nslots m
  | .resolve _ => true
  | .read => true
  | .setSupplyVoltage _ => true
  | .enableSupply _ => true
  | .busCycle => true
  | .freeRunStart => true
  | .freeRunCancel => true
  | .readReg _ => true

end Sys2Proof
end

