-- ==== Sys2Proof/Decode.lean ====
section
/-!
DEFINITION. The command decoder and the encoder (spec 30_encoding.md R100, R105 to R108): total on byte strings,
every undecodable string rejected by name. The decoder takes the number of slots, which fixes `MB`.
-/

namespace Sys2Proof

open Machine

/-- The opcodes of R105. -/
inductive Opcode where
  | resolve | pinsForSlot | fanOut | aggregate | drive | triState | read | assignGround
  | assignSupplyPins | setSupplyVoltage | enableSupply | busCycle | freeRunStart | freeRunCancel | readReg
deriving DecidableEq, Repr

/-- Why a byte string is no command (R107): each is `IllegalCommand` to the host. -/
inductive DecodeError where
  /-- The byte string is empty: it has no byte 0. -/
  | noOpcode
  /-- Byte 0 is not in the opcode map. -/
  | unknownOpcode (code : Byte)
  /-- The length is not the one R106 gives for the opcode. -/
  | wrongLength (op : Opcode)
  /-- An operand value that R108 forbids. -/
  | badOperand (op : Opcode)
deriving DecidableEq, Repr

/-- The opcode byte of each row of R105. -/
def Opcode.code : Opcode → Byte
  | .resolve => 0x01#8
  | .pinsForSlot => 0x02#8
  | .fanOut => 0x03#8
  | .aggregate => 0x04#8
  | .drive => 0x10#8
  | .triState => 0x11#8
  | .read => 0x12#8
  | .assignGround => 0x13#8
  | .assignSupplyPins => 0x14#8
  | .setSupplyVoltage => 0x15#8
  | .enableSupply => 0x16#8
  | .busCycle => 0x20#8
  | .freeRunStart => 0x21#8
  | .freeRunCancel => 0x22#8
  | .readReg => 0x30#8

/-- The rows of R105, in its order. -/
def Opcode.all : List Opcode :=
  [.resolve, .pinsForSlot, .fanOut, .aggregate, .drive, .triState, .read, .assignGround,
   .assignSupplyPins, .setSupplyVoltage, .enableSupply, .busCycle, .freeRunStart, .freeRunCancel, .readReg]

/-- The row whose opcode byte is `b`; every byte not in R105 is reserved (R107). -/
def Opcode.ofByte (b : Byte) : Option Opcode := Opcode.all.find? fun op => op.code == b

/-- The command length in bytes (R106); `MB = 5 * NSLOTS`. -/
def Opcode.length (nslots : Nat) : Opcode → Nat
  | .resolve => 3
  | .pinsForSlot => 2
  | .fanOut => 1 + 5 * nslots
  | .aggregate => 1 + 5 * nslots
  | .drive => 1 + 5 * nslots
  | .triState => 1 + 5 * nslots
  | .read => 1
  | .assignGround => 1 + 5 * nslots
  | .assignSupplyPins => 1 + 5 * nslots
  | .setSupplyVoltage => 5
  | .enableSupply => 2
  | .busCycle => 1
  | .freeRunStart => 1
  | .freeRunCancel => 1
  | .readReg => 2

/-- The length in bytes of the OK response (R106). -/
def Opcode.okLength (nslots : Nat) : Opcode → Nat
  | .resolve => 3
  | .pinsForSlot => 1 + 5 * nslots
  | .fanOut => 1 + 5 * nslots
  | .aggregate => 1 + 5 * nslots
  | .drive => 1
  | .triState => 1
  | .read => 1 + 5 * nslots
  | .assignGround => 1
  | .assignSupplyPins => 1
  | .setSupplyVoltage => 1
  | .enableSupply => 1
  | .busCycle => 7
  | .freeRunStart => 1
  | .freeRunCancel => 1
  | .readReg => 5

/-- The gate column of R105: the command acquires the transaction gate (R251). -/
def Opcode.needsGate : Opcode → Bool
  | .resolve => false
  | .pinsForSlot => false
  | .fanOut => false
  | .aggregate => false
  | .drive => true
  | .triState => true
  | .read => true
  | .assignGround => true
  | .assignSupplyPins => true
  | .setSupplyVoltage => true
  | .enableSupply => true
  | .busCycle => true
  | .freeRunStart => false
  | .freeRunCancel => false
  | .readReg => false

/-- The opcode of a command. -/
def Instr.opcode : Instr → Opcode
  | .resolve _ => .resolve
  | .pinsForSlot _ => .pinsForSlot
  | .fanOut _ => .fanOut
  | .aggregate _ => .aggregate
  | .drive _ => .drive
  | .triState _ => .triState
  | .read => .read
  | .assignGround _ => .assignGround
  | .assignSupplyPins _ => .assignSupplyPins
  | .setSupplyVoltage _ => .setSupplyVoltage
  | .enableSupply _ => .enableSupply
  | .busCycle => .busCycle
  | .freeRunStart => .freeRunStart
  | .freeRunCancel => .freeRunCancel
  | .readReg _ => .readReg

/-- The registers of R38 in the order of their numbers. -/
def Reg.all : List Reg :=
  [.mode, .phase, .flags, .lastStatus, .frStatus, .errPin, .errSlot, .errPrim, .errSrc,
   .lastAddr, .lastValue, .lastDir, .txnCount, .seq, .rmStatus, .rmErrPin, .rmErrSlot,
   .cfgNslots, .cfgN, .cfgBound, .cfgAw, .cfgRwReadLevel, .cfgTTri, .cfgTClk,
   .curAddr, .curValue, .curDir]

/-- The number of each register (R38). -/
def Reg.number : Reg → Byte
  | .mode => 0x00#8
  | .phase => 0x01#8
  | .flags => 0x02#8
  | .lastStatus => 0x03#8
  | .frStatus => 0x04#8
  | .errPin => 0x05#8
  | .errSlot => 0x06#8
  | .errPrim => 0x07#8
  | .errSrc => 0x08#8
  | .lastAddr => 0x09#8
  | .lastValue => 0x0A#8
  | .lastDir => 0x0B#8
  | .txnCount => 0x0C#8
  | .seq => 0x0D#8
  | .rmStatus => 0x0E#8
  | .rmErrPin => 0x0F#8
  | .rmErrSlot => 0x10#8
  | .cfgNslots => 0x11#8
  | .cfgN => 0x12#8
  | .cfgBound => 0x13#8
  | .cfgAw => 0x14#8
  | .cfgRwReadLevel => 0x15#8
  | .cfgTTri => 0x16#8
  | .cfgTClk => 0x17#8
  | .curAddr => 0x18#8
  | .curValue => 0x19#8
  | .curDir => 0x1A#8

/-- The register with number `b`; numbers not in R38 are reserved (R37). -/
def Reg.ofNumber (b : Byte) : Option Reg := Reg.all.find? fun r => r.number == b

/-- Read the operand bytes of a command of the right length (R105), rejecting what R108 forbids. -/
def decodeOperands (nslots : Nat) (op : Opcode) (bs : List Byte) : Except DecodeError Instr :=
  match op with
  | .resolve => .ok (.resolve (BitVec.ofNat 16 (leNat bs)))
  | .pinsForSlot =>
    if leNat bs < nslots then .ok (.pinsForSlot (BitVec.ofNat 8 (leNat bs))) else .error (.badOperand op)
  | .fanOut => .ok (.fanOut (vmaskOfBytes bs))
  | .aggregate => .ok (.aggregate (lmasksOfBytes nslots bs))
  | .drive => .ok (.drive (vmaskOfBytes bs))
  | .triState => .ok (.triState (vmaskOfBytes bs))
  | .read => .ok .read
  | .assignGround => .ok (.assignGround (vmaskOfBytes bs))
  | .assignSupplyPins => .ok (.assignSupplyPins (vmaskOfBytes bs))
  | .setSupplyVoltage => .ok (.setSupplyVoltage (BitVec.ofNat 32 (leNat bs)))
  | .enableSupply =>
    if leNat bs = 0 then .ok (.enableSupply false)
    else if leNat bs = 1 then .ok (.enableSupply true)
    else .error (.badOperand op)
  | .busCycle => .ok .busCycle
  | .freeRunStart => .ok .freeRunStart
  | .freeRunCancel => .ok .freeRunCancel
  | .readReg =>
    match Reg.ofNumber (BitVec.ofNat 8 (leNat bs)) with
    | some r => .ok (.readReg r)
    | none => .error (.badOperand op)

/-- Decode one command, delivered complete with its length (R100): the opcode from byte 0, then its length
(R106), then its operands (R105, R108). -/
def decode (nslots : Nat) : List Byte → Except DecodeError Instr
  | [] => .error .noOpcode
  | b :: bs =>
    match Opcode.ofByte b with
    | none => .error (.unknownOpcode b)
    | some op =>
      if bs.length + 1 = op.length nslots then decodeOperands nslots op bs else .error (.wrongLength op)

/-- The operand bytes of a command (R105). -/
def encodeOperands (nslots : Nat) : Instr → List Byte
  | .resolve vpin => leBytes 2 vpin.toNat
  | .pinsForSlot slot => [slot]
  | .fanOut m => vmaskBytes nslots m
  | .aggregate v => lmasksBytes nslots v
  | .drive m => vmaskBytes nslots m
  | .triState m => vmaskBytes nslots m
  | .read => []
  | .assignGround m => vmaskBytes nslots m
  | .assignSupplyPins m => vmaskBytes nslots m
  | .setSupplyVoltage level => leBytes 4 level.toNat
  | .enableSupply on => [if on then 1#8 else 0#8]
  | .busCycle => []
  | .freeRunStart => []
  | .freeRunCancel => []
  | .readReg r => [r.number]

/-- The byte string of a command: the opcode, then the operands (R100, R105). -/
def encode (nslots : Nat) (i : Instr) : List Byte := i.opcode.code :: encodeOperands nslots i

/-- The byte string that starts with the `nbits / 8` low bytes of `w`, bit 0 being the least significant bit of
byte 0, and goes on with zero bytes to the length R106 gives its opcode. -/
def tableBytes (nslots nbits w : Nat) : List Byte :=
  let given := leBytes (nbits / 8) w
  match given with
  | [] => []
  | b :: _ =>
    match Opcode.ofByte b with
    | none => given
    | some op => given ++ List.replicate (op.length nslots - given.length) 0#8

/-- What the decoder reads from a table row's word, on the reference configuration's number of slots. -/
def decodeTableWord (nbits w : Nat) : Option Instr :=
  match decode Config.reference.nslots (tableBytes Config.reference.nslots nbits w) with
  | .ok i => some i
  | .error _ => none

end Sys2Proof
end

