-- ==== Sys2Proof/Machine/Types.lean ====
section
/-!
DEFINITION. The data types of the machine's state: status codes, phases, owners, device primitives, the trace's
events, device ports, the worker's place, and the environment's answers (spec 10_state.md, 20_memory.md,
30_encoding.md R109).
-/

namespace Sys2Proof.Machine

/-- The two values of `MODE` (R26). -/
inductive Mode where
  | ready | failed
deriving DecidableEq, Repr

/-- The sequencer's states (R27). -/
inductive Phase where
  | idle | floating | sampled | readDrive | writeCapture | settled
deriving DecidableEq, Repr

/-- The status codes of R109; no other is ever produced (U22). -/
inductive Status where
  | ok | pinOutOfRange | duplicatePin | unmappedPin | unboundDevice | transportError | roleMapInvalid
  | illegalCommand
deriving DecidableEq, Repr

/-- `GATE_OWNER` (R34): `free` is the spec's `none`. -/
inductive Owner where
  | free | host | freerun
deriving DecidableEq, Repr

/-- The block's two agents (R295). -/
inductive Agent where
  | host | freerun
deriving DecidableEq, Repr

/-- A transaction's direction (R28, R204). -/
inductive Direction where
  | write | read
deriving DecidableEq, Repr

/-- A device primitive with its argument (R70). -/
inductive Prim where
  | init
  | setOutput (m : LMask)
  | setTristate (m : LMask)
  | readInput
  | setSupplyVoltage (level : Int)
  | enableSupply (on : Bool)
  | assignSupplyPins (m : LMask)
  | assignGroundPins (m : LMask)
deriving DecidableEq, Repr

/-- What a primitive returns: its result, the returned mask for `read_input`, or `TransportError` (R41, R70). -/
inductive PrimResult where
  | ok
  | levels (m : LMask)
  | transportError
deriving DecidableEq, Repr

/-- One event of the trace (R41). -/
inductive Event where
  | dev (slot : Nat) (prim : Prim) (result : PrimResult)
  | memRead (addr : Nat) (value : Byte)
  | memWrite (addr : Nat) (value : Byte)
  | phase (seq : Word) (src dst : Phase) (owner : Owner)
  | record (addr : Word) (value : Byte) (dir : Direction)
deriving DecidableEq, Repr

/-- The ground or the supply assignment of one device (R39). Only `pins` is a value; the other two are the spec's "no
value", unknown and not 0, kept apart because R72 asks which pins an assignment has reached. -/
inductive PinAssignment where
  /-- No assignment primitive has been issued since reset (R39, U1). -/
  | never
  /-- The last assignment primitive raised `TransportError` (R73, U6). -/
  | lost
  /-- The last assignment primitive completed with this mask (R71). -/
  | pins (mask : LMask)
deriving DecidableEq, Repr

/-- The port state of one device (R39). `none`, and `never` and `lost` of an assignment, are the spec's "no value":
unknown, not 0. -/
structure Port where
  out : Option LMask
  tri : Option LMask
  gnd : PinAssignment
  sup : PinAssignment
  vlevel : Option Int
  supEn : Option Bool
deriving DecidableEq, Repr

/-- A device nothing has written: every field unknown (R39, R324). -/
def Port.unknown : Port :=
  { out := none, tri := none, gnd := .never, sup := .never, vlevel := none, supEn := none }

/-- What an error records when it is raised: its code, pin, slot and primitive (R281, R285). -/
structure Raise where
  status : Status
  pin : BitVec 16
  slot : Byte
  prim : Byte
deriving DecidableEq, Repr

/-- The actions of one transaction, in the order of R200 to R208; between two of them the other agent may read the
registers, and inside one it may not: DESIGN CHOICE where an action writes several (notes/assumptions/24.md). -/
inductive TxnStage where
  | precheck | floatBus | enterSampled | sample | branch
  | readEnable | readFetch | readClockHigh | readClockLow
  | writeClockHigh | writeCapture | writeStore | writeClockLow
  | enterSettled | settle | enterIdle
deriving DecidableEq, Repr

/-- Where the free-run worker stands in its loop (R253). -/
inductive WorkerStage where
  /-- At the loop's top, about to read `FR_CANCEL`. -/
  | boundary
  /-- Waiting for the gate. -/
  | acquire
  /-- In a transaction, about to do this action. -/
  | txn (stage : TxnStage)
  /-- The transaction completed; about to release the gate. -/
  | release
  /-- About to write `FR_STATUS` and loop. -/
  | report
  /-- An error was raised; about to stop. -/
  | stopping
deriving DecidableEq, Repr

/-- The environment's answer to one `read_input`: the levels the target presents, and the bits drawn for pins
that are driven or assigned, or may be (R72). -/
structure InputSample where
  levels : LMask
  draw : LMask
deriving DecidableEq, Repr

/-- The oracles of D45 as plain data. Each list holds the coming answers, the next one first; past its end the
opaque constants of Config answer, at the number `draws` of answers drawn so far. -/
structure Env where
  /-- Whether each coming primitive raises `TransportError` (R73). -/
  transport : List Bool
  /-- The answers to the coming `read_input`s (R72). -/
  inputs : List InputSample
  /-- Which agent moves, each time both can (R258). -/
  schedule : List Agent
  draws : Nat
deriving DecidableEq, Repr

/-- The target memory: (address, byte) pairs with strictly rising addresses and no byte 0 listed, because an
address `M` does not give holds 0 (R40, R75). -/
abbrev Memory := List Host.Cell

end Sys2Proof.Machine
end

