-- ==== Sys2Proof/Machine/Environment.lean ====
section
/-!
DEFINITION. Drawing the environment's answers (spec 92_eei_decisions.md D45): transport outcomes (20_memory.md
R73), `read_input` masks (R72) and the scheduling choice (43_control.md R258). An answer comes from the script
in `Env` while there is one, and from an opaque constant of Config after it (notes/assumptions/2.md to 5.md).
-/

namespace Sys2Proof.Machine

/-- Whether the next primitive raises `TransportError` (R73). -/
def Env.drawTransport (e : Env) : Bool × Env :=
  match e.transport with
  | b :: rest => (b, { e with transport := rest, draws := e.draws + 1 })
  | [] => (Config.freeTransport e.draws, { e with draws := e.draws + 1 })

/-- The environment's answer to the next `read_input` (R72). -/
def Env.drawInput (e : Env) : InputSample × Env :=
  match e.inputs with
  | i :: rest => (i, { e with inputs := rest, draws := e.draws + 1 })
  | [] => ({ levels := Config.freeLevels e.draws, draw := Config.freeDraw e.draws },
           { e with draws := e.draws + 1 })

/-- Which agent moves next when both can (R258, D17). -/
def Env.drawAgent (e : Env) : Agent × Env :=
  match e.schedule with
  | a :: rest => (a, { e with schedule := rest, draws := e.draws + 1 })
  | [] => (if Config.freeSchedule e.draws then .host else .freerun, { e with draws := e.draws + 1 })

/-- The field's value where it has one (R39, U1, U6). -/
def PinAssignment.value : PinAssignment → Option LMask
  | .never => none
  | .lost => none
  | .pins m => some m

/-- The local pins that the assignments issued so far have assigned, or may have (R72). With none issued there are none:
R213 and R214 sample the target's levels on such a device (DEDUCED). After a failed one any pin may be assigned, the
field being unknown (R73, U6; DEDUCED). notes/assumptions/3.md. -/
def PinAssignment.reach : PinAssignment → LMask
  | .never => 0#40
  | .lost => BitVec.allOnes 40
  | .pins m => m

/-- The local pins that show the level the target presents: tri-stated, and assigned to neither ground nor supply (R72).
While the tri-state setting is unknown no pin is known to. -/
def Port.targetPins (p : Port) : LMask :=
  match p.tri with
  | some t => t &&& ~~~p.gnd.reach &&& ~~~p.sup.reach
  | none => 0#40

/-- `IN[s]`: on the target's pins the levels it presents, on every other pin a free draw (R72, U3, U4). -/
def Port.input (p : Port) (i : InputSample) : LMask :=
  (i.levels &&& p.targetPins) ||| (i.draw &&& ~~~p.targetPins)

end Sys2Proof.Machine
end

