-- ==== Sys2Proof/Machine/PinMap.lean ====
section
/-!
DEFINITION. The pin map: registry lookup and construction (spec 40_registry.md R140, R142, R144), fan-out and
fan-in (41_virtual_bus.md R160, R162), the derived pin sets and masks (10_state.md R24), and the RoleMap check
(70_reset_and_hazards.md R323). All are functions of the configuration.
-/

namespace Sys2Proof.Machine

/-- The code of a status (R109). -/
def Status.code : Status → Byte
  | .ok => 0x00#8
  | .pinOutOfRange => 0x01#8
  | .duplicatePin => 0x02#8
  | .unmappedPin => 0x03#8
  | .unboundDevice => 0x04#8
  | .transportError => 0x05#8
  | .roleMapInvalid => 0x06#8
  | .illegalCommand => 0x07#8

/-- The value "none" of `ERR_SLOT` and `ERR_PRIM` (R31). -/
def noneByte : Byte := 0xFF#8

/-- `UnmappedPin(pin = p, slot = none)` (R281). The pin is cut to the register's width, a negative role pin as two's
complement: DESIGN CHOICE (notes/assumptions/25.md). -/
def unmappedPin (p : VPin) : Raise :=
  { status := .unmappedPin, pin := BitVec.ofInt 16 p, slot := noneByte, prim := noneByte }

/-- `UnboundDevice(pin = p, slot = s)` (R281). -/
def unboundDevice (p : VPin) (s : Nat) : Raise :=
  { status := .unboundDevice, pin := BitVec.ofInt 16 p, slot := BitVec.ofNat 8 s, prim := noneByte }

/-- A construction error: the entry's pin and slot, truncated to the registers' widths (R144, R146). The bits of a
negative integer are those of its two's complement: DESIGN CHOICE (notes/assumptions/25.md). -/
def registryError (e : Entry) (st : Status) : Raise :=
  { status := st, pin := BitVec.ofInt 16 e.vpin, slot := BitVec.ofInt 8 e.slot, prim := noneByte }

/-- `IllegalCommand`: nothing recorded but the code (R281). -/
def illegalCommand : Raise :=
  { status := .illegalCommand, pin := 0#16, slot := noneByte, prim := noneByte }

/-- `res` of R140: the slot and local pin of a virtual pin, or none. It never reads `BOUND`. -/
def res (c : Config) (p : VPin) : Option (Nat × Nat) :=
  (c.registry.find? fun e => e.vpin == p).map fun e => (e.slot.toNat, e.localPin.toNat)

/-- Bit `k` of a virtual mask stands for this pin (R10, R67). -/
def pinOfBit (k : Nat) : VPin := Int.ofNat (k + 1)

/-- The bit of a virtual mask that stands for pin `p` of `1..N` (R10, R67). -/
def bitOfPin (p : VPin) : Nat := (p - 1).toNat

/-- `mask(S)` for the set of pins of `1..N` that `S` admits (R10). -/
def pinMask (c : Config) (S : VPin → Bool) : VMask := maskOf c.numPins fun k => S (pinOfBit k)

/-- Pin `p` is in `pins_for_slot(s)` (R142). -/
def pinOnSlot (c : Config) (s : Nat) (p : VPin) : Bool :=
  match res c p with
  | some (t, _) => t == s
  | none => false

/-- `mask(pins_for_slot(s))` (R142, R143). -/
def pinsForSlot (c : Config) (s : Nat) : VMask := pinMask c (pinOnSlot c s)

/-- An entry names a pin of `1..N`, a slot of `0..NSLOTS-1` and a local pin of `1..40` (R144). -/
def entryInRange (c : Config) (e : Entry) : Bool :=
  decide (1 ≤ e.vpin) && decide (e.vpin ≤ Int.ofNat c.numPins) &&
  decide (0 ≤ e.slot) && decide (e.slot < Int.ofNat c.nslots) &&
  decide (1 ≤ e.localPin) && decide (e.localPin ≤ 40)

/-- Two entries target the same (slot, local pin) or give the same virtual pin (R144). -/
def entriesClash (d e : Entry) : Bool :=
  (d.slot == e.slot && d.localPin == e.localPin) || d.vpin == e.vpin

/-- Registry construction over the rest of the list, `seen` being the entries already accepted: the error of the
first failing entry, range before duplicate (R144). -/
def constructFrom (c : Config) (seen : List Entry) : List Entry → Option Raise
  | [] => none
  | e :: rest =>
    if entryInRange c e then
      if seen.any fun d => entriesClash d e then some (registryError e .duplicatePin)
      else constructFrom c (e :: seen) rest
    else some (registryError e .pinOutOfRange)

/-- Registry construction (R144): none, or the error that makes the block `FAILED`. -/
def constructRegistry (c : Config) : Option Raise := constructFrom c [] c.registry

/-- `fan_out` over a list of mask bits (R160): for each set bit in the list's order, resolve its pin and set its
local bit; the first bit that fails ends it. -/
def fanOutFrom (c : Config) (m : VMask) : List Nat → PerSlot LMask → Except Raise (PerSlot LMask)
  | [], L => .ok L
  | k :: ks, L =>
    if m.getLsbD k then
      match res c (pinOfBit k) with
      | none => .error (unmappedPin (pinOfBit k))
      | some (s, l) =>
        if c.isBound s then fanOutFrom c m ks (L.set s (L.get s ||| localBit l))
        else .error (unboundDevice (pinOfBit k) s)
    else fanOutFrom c m ks L

/-- `fan_out(m)` (R160): the local mask of every bound slot, 0 for a slot no set bit reaches (and for an unbound
slot), or the error of the lowest failing pin. -/
def fanOut (c : Config) (m : VMask) : Except Raise (PerSlot LMask) :=
  fanOutFrom c m (List.range c.numPins) (PerSlot.tabulate fun _ => 0#40)

/-- The level local masks give to pin `p`: its local bit if it maps to a bound slot, else 0 (R162). -/
def fannedIn (c : Config) (I : PerSlot LMask) (p : VPin) : Bool :=
  match res c p with
  | some (s, l) => c.isBound s && (I.get s).getLsbD (l - 1)
  | none => false

/-- `aggregate(I)` (R162). -/
def aggregate (c : Config) (I : PerSlot LMask) : VMask := pinMask c (fannedIn c I)

/-- Pin `p` maps to a bound slot: membership in `ALL_BOUND` for `p` in `1..N` (R24). -/
def onBoundSlot (c : Config) (p : VPin) : Bool :=
  match res c p with
  | some (s, _) => c.isBound s
  | none => false

/-- `mask(ALL_BOUND)` (R24). -/
def allBoundMask (c : Config) : VMask := pinMask c (onBoundSlot c)

/-- Pin `p` is in `HOST_DRIVEN`: the clock or an always-driven pin (R24). -/
def hostDriven (c : Config) (p : VPin) : Bool :=
  p == c.roleMap.clockPin || c.roleMap.alwaysDriven.any fun f => f.pin == p

/-- `FLOAT_MASK` (R24). -/
def floatMask (c : Config) : VMask := pinMask c fun p => onBoundSlot c p && !hostDriven c p

/-- `RD_TRI_MASK` (R24). -/
def readTriMask (c : Config) : VMask :=
  pinMask c fun p => onBoundSlot c p && !hostDriven c p && !c.roleMap.dataBits.any fun d => d == p

/-- Pin `p` carries a set bit of the data byte `v` placed on `data_bits[0..7]` in order (R24, R68). -/
def dataBitSet (v : Byte) (p : VPin) : List VPin → Nat → Bool
  | [], _ => false
  | d :: ds, i => (d == p && v.getLsbD i) || dataBitSet v p ds (i + 1)

/-- `DRIVE_MASK(c, v)` (R24): `none` is the spec's `⊥`, data not driven. -/
def driveMask (c : Config) (clk : Bool) (v : Option Byte) : VMask :=
  pinMask c fun p =>
    (clk && p == c.roleMap.clockPin) ||
    (c.roleMap.alwaysDriven.any fun f => f.pin == p && f.level) ||
    (match v with
     | some b => dataBitSet b p c.roleMap.dataBits 0
     | none => false)

/-- The issue order of the sequencer's `set_output` calls: bound slots ascending, the slot of `clock_pin` last
(R74). -/
def clockLastSlots (c : Config) : List Nat :=
  match res c c.roleMap.clockPin with
  | some (k, _) => (c.boundSlots.filter fun s => s != k) ++ (c.boundSlots.filter fun s => s == k)
  | none => c.boundSlots

/-- The unsigned value of sampled bits, the first pin giving bit 0 (R68, R204, R207). -/
def sampleBits (input : VMask) (pins : List VPin) : Nat :=
  bitsToNat (pins.map fun p => input.getLsbD (bitOfPin p))

/-- The role pins in canonical order (R323). -/
def rolePins (c : Config) : List VPin :=
  c.roleMap.addressBits ++ c.roleMap.dataBits ++ [c.roleMap.rwPin, c.roleMap.clockPin] ++
    c.roleMap.alwaysDriven.map FixedPin.pin

/-- The first element of a list that equals an earlier one. -/
def firstRepeat (seen : List VPin) : List VPin → Option VPin
  | [] => none
  | p :: ps => if seen.any fun q => q == p then some p else firstRepeat (p :: seen) ps

/-- The first role pin that is unmapped or on an unbound slot (R323). -/
def firstUnusable (c : Config) : List VPin → Option Raise
  | [] => none
  | p :: ps =>
    match res c p with
    | none => some (unmappedPin p)
    | some (s, _) => if c.isBound s then firstUnusable c ps else some (unboundDevice p s)

/-- `RoleMapInvalid` with the pin it records, 0 for a length error (R281, R323); a pin that does not fit the register
is cut as notes/assumptions/25.md says (DESIGN CHOICE). -/
def roleMapInvalid (pin : BitVec 16) : Raise :=
  { status := .roleMapInvalid, pin := pin, slot := noneByte, prim := noneByte }

/-- The RoleMap check of R323: none when the RoleMap can run, else what every `BUS_CYCLE` precheck raises. -/
def checkRoleMap (c : Config) : Option Raise :=
  if c.addrWidth > 32 ∨ c.roleMap.dataBits.length ≠ 8 then some (roleMapInvalid 0#16)
  else
    match firstRepeat [] (rolePins c) with
    | some p => some (roleMapInvalid (BitVec.ofInt 16 p))
    | none => firstUnusable c (rolePins c)

end Sys2Proof.Machine
end

