-- ==== Sys2Proof/Machine/Boot.lean ====
section
/-!
DEFINITION. The steps of the reset sequence that can fail or depend on the configuration (spec
70_reset_and_hazards.md R320 to R323): registry construction, `init()`, the RoleMap check.
-/

namespace Sys2Proof.Machine

/-- What step 4 of reset leaves: its events, the environment, and the slot whose `init()` failed, if one did. -/
structure InitRun where
  events : List Event
  env : Env
  failed : Option Nat
deriving DecidableEq, Repr

/-- Step 4 of the reset sequence (R322): `init()` to each slot of the list in order, stopping at a failure. -/
def initSlots : List Nat → Env → InitRun
  | [], e => { events := [], env := e, failed := none }
  | k :: ks, e =>
    match e.drawTransport with
    | (true, e') => { events := [.dev k .init .transportError], env := e', failed := some k }
    | (false, e') =>
      let r := initSlots ks e'
      { r with events := .dev k .init .ok :: r.events }

/-- What a failed `init()` of slot `k` records (R322): `TransportError`, the slot, primitive code 0. -/
def initError (k : Nat) : Raise :=
  { status := .transportError, pin := 0#16, slot := BitVec.ofNat 8 k, prim := 0#8 }

/-- The registers reset computes, with the trace and the environment it leaves (R320). -/
structure Boot where
  mode : Mode
  lastStatus : Status
  errPin : BitVec 16
  errSlot : Byte
  errPrim : Byte
  errSrc : Byte
  rmStatus : Status
  rmErrPin : BitVec 16
  rmErrSlot : Byte
  trace : List Event
  env : Env
deriving DecidableEq, Repr

/-- Reset without an error so far: `READY`, no error recorded, the RoleMap check not computed (R31, R320). -/
def bootReady (trace : List Event) (e : Env) : Boot :=
  { mode := .ready, lastStatus := .ok, errPin := 0#16, errSlot := noneByte, errPrim := noneByte,
    errSrc := 0xFF#8, rmStatus := .ok, rmErrPin := 0#16, rmErrSlot := noneByte, trace := trace, env := e }

/-- Reset ends in `FAILED` with this error recorded, `ERR_SRC = 2` (R320 to R322, R146). -/
def bootFailed (r : Raise) (trace : List Event) (e : Env) : Boot :=
  { bootReady trace e with
    mode := .failed, lastStatus := r.status, errPin := r.pin, errSlot := r.slot, errPrim := r.prim,
    errSrc := 0x02#8 }

/-- Steps 3 to 5 of the reset sequence (R320): build the registry (R321), `init()` every bound slot (R322), check
the RoleMap (R323). -/
def boot (c : Config) (e : Env) : Boot :=
  match constructRegistry c with
  | some r => bootFailed r [] e
  | none =>
    let i := initSlots c.boundSlots e
    match i.failed with
    | some k => bootFailed (initError k) i.events i.env
    | none =>
      match checkRoleMap c with
      | none => bootReady i.events i.env
      | some r =>
        { bootReady i.events i.env with rmStatus := r.status, rmErrPin := r.pin, rmErrSlot := r.slot }

end Sys2Proof.Machine
end

