-- ==== Sys2Proof/Machine/Memory.lean ====
section
/-!
DEFINITION. The target memory `M` (spec 10_state.md R40, 20_memory.md R75): a list of cells in one canonical
form, so that equal memories are equal lists.
-/

namespace Sys2Proof.Machine

/-- What an address that is not listed reads as: "default 0 for unmapped addresses" (R40, R75). -/
def Memory.unlisted : Byte := 0#8

/-- The byte at an address: `MemRead` of R75. -/
def Memory.read (m : Memory) (a : Nat) : Byte :=
  match m with
  | [] => Memory.unlisted
  | (b, v) :: rest => if b = a then v else Memory.read rest a

/-- Put a byte before the rest of a memory, unless it is what an unlisted address reads as. -/
def Memory.cons (a : Nat) (v : Byte) (m : Memory) : Memory :=
  if v = Memory.unlisted then m else (a, v) :: m

/-- The memory after a byte is stored: `MemWrite` of R75. -/
def Memory.write (m : Memory) (a : Nat) (v : Byte) : Memory :=
  match m with
  | [] => Memory.cons a v []
  | (b, w) :: rest =>
    if a < b then Memory.cons a v ((b, w) :: rest)
    else if a = b then Memory.cons a v rest
    else (b, w) :: Memory.write rest a v

/-- The canonical form: addresses strictly rising, no entry equal to what an unlisted address reads as. -/
def Memory.wf (m : Memory) : Bool :=
  decide ((m.map Prod.fst).Pairwise (· < ·)) && m.all fun cell => cell.2 != Memory.unlisted

/-- The memory that holds a finite map of bytes and 0 elsewhere (R8 `MEM0`, R40). -/
def Memory.ofCells (cells : List (Nat × Byte)) : Memory :=
  cells.foldl (fun m cell => Memory.write m cell.1 cell.2) []

end Sys2Proof.Machine
end

