-- ==== Sys2Proof/Machine/State.lean ====
section
/-!
DEFINITION. The state of the block and of the parties it talks to (spec 10_state.md), the reasons a step can
stop, and the state after reset (70_reset_and_hazards.md R320 to R324).
-/

namespace Sys2Proof.Machine

/-- The reasons the machine stops with a fault: none. Every error of this hardware is the result of a command,
recorded in registers, after which the block takes the next command (R280, R293). -/
inductive Fault where
deriving DecidableEq, Repr

/-- The reasons an instruction has no meaning. -/
inductive Refusal where
  /-- Raised only by an arm of `exec` whose instruction has no meaning yet; safe. No arm raises it. -/
  | notModelled (mnemonic : String)
deriving DecidableEq, Repr

/-- The machine. Field by field: INVENTORY.md, State. -/
structure State where
  /-- The configuration, latched at reset (R20). -/
  cfg : Config
  mode : Mode
  phase : Phase
  curAddr : Word
  curDir : Direction
  curValue : Byte
  lastValid : Bool
  lastAddr : Word
  lastValue : Byte
  lastDir : Direction
  txnCount : Word
  seq : Word
  lastStatus : Status
  frStatus : Status
  errPin : BitVec 16
  errSlot : Byte
  errPrim : Byte
  errSrc : Byte
  busUnknown : Bool
  rmStatus : Status
  rmErrPin : BitVec 16
  rmErrSlot : Byte
  gateOwner : Owner
  frRunning : Bool
  frCancel : Bool
  /-- The devices' port state, one per slot; an unbound slot has no device and its record stays unknown (R39). -/
  ports : PerSlot Port
  /-- The target memory `M` (R40). -/
  mem : Memory
  /-- The trace, oldest event first (R41). -/
  trace : List Event
  /-- Where the free-run worker stands (R253). -/
  frStage : WorkerStage
  /-- The commands sent and not yet taken, in arrival order (R100). -/
  cmds : List (List Byte)
  /-- The responses given, oldest first (R101). -/
  responses : List (List Byte)
  /-- The environment's coming answers (D45). -/
  env : Env
deriving DecidableEq, Repr

/-- The reset sequence R320 for a configuration and an environment: the configuration latched, every register at
its reset value (R38), the devices unknown (R39), the memory at `MEM0` (R40), and what `boot` leaves. -/
def State.resetWith (c : Config) (e : Env) : State :=
  { cfg := c, mode := (boot c e).mode, phase := .idle,
    curAddr := 0#32, curDir := .write, curValue := 0#8,
    lastValid := false, lastAddr := 0#32, lastValue := 0#8, lastDir := .write,
    txnCount := 0#32, seq := 0#32, lastStatus := (boot c e).lastStatus, frStatus := .ok,
    errPin := (boot c e).errPin, errSlot := (boot c e).errSlot, errPrim := (boot c e).errPrim,
    errSrc := (boot c e).errSrc, busUnknown := true,
    rmStatus := (boot c e).rmStatus, rmErrPin := (boot c e).rmErrPin, rmErrSlot := (boot c e).rmErrSlot,
    gateOwner := .free, frRunning := false, frCancel := false,
    ports := PerSlot.tabulate fun _ => Port.unknown,
    mem := Memory.ofCells c.mem0, trace := (boot c e).trace, frStage := .boundary,
    cmds := [], responses := [], env := (boot c e).env }

/-- The environment `State.reset` starts in: DESIGN CHOICE, no statement rests on it (notes/assumptions/5.md). -/
def Env.reference : Env :=
  { transport := List.replicate 64 false,
    inputs := List.replicate 16 { levels := 0#40, draw := 0#40 },
    schedule := [], draws := 0 }

/-- The machine right after reset (R320, R324), with the reference configuration. -/
def State.reset : State := State.resetWith Config.reference Env.reference

end Sys2Proof.Machine
end

