-- ==== Sys2Proof/Machine/Flags.lean ====
section
/-!
DEFINITION. The registers as `READ_REG` reads them (spec 10_state.md R37, R38): the codes of the small fields,
the FLAGS word, and the value of every register, zero-extended to 32 bits.
-/

namespace Sys2Proof.Machine

/-- The code of a flag. -/
def bit (b : Bool) : Word := if b then 1#32 else 0#32

/-- The code of `MODE` (R26). -/
def Mode.code : Mode → Word
  | .ready => 0#32
  | .failed => 1#32

/-- The code of `PHASE` (R27). -/
def Phase.code : Phase → Word
  | .idle => 0#32
  | .floating => 1#32
  | .sampled => 2#32
  | .readDrive => 3#32
  | .writeCapture => 4#32
  | .settled => 5#32

/-- The code of `GATE_OWNER` (R34). -/
def Owner.code : Owner → Word
  | .free => 0#32
  | .host => 1#32
  | .freerun => 2#32

/-- The direction bit: 1 = read (R28). -/
def Direction.code : Direction → Byte
  | .write => 0#8
  | .read => 1#8

/-- The code of an agent in `ERR_SRC` (R31). -/
def Agent.source : Agent → Byte
  | .host => 0#8
  | .freerun => 1#8

/-- The owner an agent is at the gate (R34). -/
def Agent.owner : Agent → Owner
  | .host => .host
  | .freerun => .freerun

/-- The FLAGS register: bit 0 BUS_UNKNOWN, 1 FR_RUNNING, 2 FR_CANCEL, 3 LAST_VALID, 5:4 GATE_OWNER, the rest 0
(R38). -/
def flagsWord (s : State) : Word :=
  bit s.busUnknown ||| bit s.frRunning <<< 1 ||| bit s.frCancel <<< 2 ||| bit s.lastValid <<< 3 |||
    s.gateOwner.code <<< 4

/-- `CFG_BOUND`: bit `s` set iff slot `s` is bound (R38). -/
def boundWord (c : Config) : Word :=
  bit (c.isBound 0) ||| bit (c.isBound 1) <<< 1 ||| bit (c.isBound 2) <<< 2 ||| bit (c.isBound 3) <<< 3

/-- The value of a register: its field at the width R38 gives it, all higher bits 0. -/
def regValue (r : Reg) (s : State) : Word :=
  match r with
  | .mode => s.mode.code
  | .phase => s.phase.code
  | .flags => flagsWord s
  | .lastStatus => s.lastStatus.code.setWidth 32
  | .frStatus => s.frStatus.code.setWidth 32
  | .errPin => s.errPin.setWidth 32
  | .errSlot => s.errSlot.setWidth 32
  | .errPrim => s.errPrim.setWidth 32
  | .errSrc => s.errSrc.setWidth 32
  | .lastAddr => s.lastAddr
  | .lastValue => s.lastValue.setWidth 32
  | .lastDir => s.lastDir.code.setWidth 32
  | .txnCount => s.txnCount
  | .seq => s.seq
  | .rmStatus => s.rmStatus.code.setWidth 32
  | .rmErrPin => s.rmErrPin.setWidth 32
  | .rmErrSlot => s.rmErrSlot.setWidth 32
  | .cfgNslots => (BitVec.ofNat 3 s.cfg.nslots).setWidth 32
  | .cfgN => (BitVec.ofNat 8 s.cfg.numPins).setWidth 32
  | .cfgBound => boundWord s.cfg
  | .cfgAw => (BitVec.ofNat 6 s.cfg.addrWidth).setWidth 32
  | .cfgRwReadLevel => bit s.cfg.rwReadLevel
  | .cfgTTri => s.cfg.tTri
  | .cfgTClk => s.cfg.tClk
  | .curAddr => s.curAddr
  | .curValue => s.curValue.setWidth 32
  | .curDir => s.curDir.code.setWidth 32

end Sys2Proof.Machine
end

