-- ==== Sys2Proof/Machine/Ops.lean ====
section
/-!
DEFINITION. The shared operations of the block: responses (spec 30_encoding.md R101), raising an error
(60_exceptions.md R285), the gate (43_control.md R250, R251), phase changes (42_bus_cycle.md R201), device
primitives (20_memory.md R70 to R74), vector writes (41_virtual_bus.md R164) and reads (R167), and memory calls
(20_memory.md R75).
-/

namespace Sys2Proof.Machine

/-! ### Runs: an operation completes with a value, or raises -/

/-- What an operation that can raise leaves: a value and a state, or the error to raise and the state so far
("all effects an error's command made before the raise stay", R280). -/
inductive Run (α : Type) where
  | done (a : α) (s : State)
  | error (r : Raise) (s : State)
deriving DecidableEq, Repr

/-- Go on with the next operation if the first completed. -/
def Run.andThen {α β : Type} (r : Run α) (f : α → State → Run β) : Run β :=
  match r with
  | .done a s => f a s
  | .error e s => .error e s

/-! ### Responses and errors -/

/-- Answer the command at the head of the port: exactly one response, before the next command is taken (R100,
R101). -/
def respond (bytes : List Byte) (s : State) : State :=
  { s with cmds := s.cmds.tail, responses := s.responses ++ [bytes] }

/-- A command completes: `LAST_STATUS` is `OK`, the response is the code and the result bytes (R31, R101). -/
def complete (result : List Byte) (s : State) : State :=
  respond (Status.ok.code :: result) { s with lastStatus := .ok }

/-- Write `PHASE`. A change of its value counts `SEQ` up and appends the `Phase` event (R30, R41, R201). -/
def setPhase (p : Phase) (s : State) : State :=
  if s.phase = p then s
  else { s with phase := p, seq := s.seq + 1#32, trace := s.trace ++ [.phase (s.seq + 1#32) s.phase p s.gateOwner] }

/-- The agent's release of the gate, if it holds it (R250, R251). -/
def releaseGate (a : Agent) (s : State) : State :=
  if s.gateOwner = a.owner then { s with gateOwner := .free } else s

/-- The end of a raising agent's own transaction: the phase goes to `Idle` (R209, R285), and the gate is released.
An agent that does not hold the gate is in no transaction, and leaves the other's phase (R107, R141, R161, R201; DEDUCED
against the letter of R285's line, notes/assumptions/9.md). -/
def abandonTxn (a : Agent) (s : State) : State :=
  if s.gateOwner = a.owner then releaseGate a (setPhase .idle s) else s

/-- The registers an error records (R281, R285). -/
def recordError (a : Agent) (r : Raise) (s : State) : State :=
  { s with errPin := r.pin, errSlot := r.slot, errPrim := r.prim, errSrc := a.source,
           busUnknown := s.busUnknown || decide (r.status = .transportError) }

/-- `raise E` by the host port (R285): the error registers, `LAST_STATUS`, the transaction and gate if it has
them, and the one-byte response (R101). -/
def raiseHost (r : Raise) (s : State) : State :=
  respond [r.status.code] (abandonTxn .host { recordError .host r s with lastStatus := r.status })

/-- `raise E` by the free-run worker (R285, R256): as the host's, with `FR_STATUS` and no response. -/
def raiseWorker (r : Raise) (s : State) : State :=
  abandonTxn .freerun { recordError .freerun r s with frStatus := r.status }

/-- `IllegalCommand` (R288): raised before any other check. In `FAILED` mode it is answered but writes no register
(R300). -/
def raiseIllegal (s : State) : State :=
  match s.mode with
  | .ready => raiseHost illegalCommand s
  | .failed => respond [Status.illegalCommand.code] s

/-! ### Dispatch conditions -/

/-- In `FAILED` mode a command is refused with the reset error's code and changes no state (R300). -/
def whenReady (s : State) (body : State → State) : State :=
  match s.mode with
  | .ready => body s
  | .failed => respond [s.lastStatus.code] s

/-- End a host command by what its body left: its result, or the error it raised. -/
def finishHost (r : Run (List Byte)) : State :=
  match r with
  | .done result s => complete result s
  | .error e s => raiseHost e s

/-- A command that holds the gate from before its first primitive to after its last (R250, R251). While the gate
is not free the command is held: it has no step, and stays at the head of the port. -/
def withGate (s : State) (body : State → Run (List Byte)) : State :=
  match s.gateOwner with
  | .free =>
    match body { s with gateOwner := .host } with
    | .done result s' => complete result (releaseGate .host s')
    | .error e s' => raiseHost e s'
  | .host => s
  | .freerun => s

/-! ### Device primitives -/

/-- The code `ERR_PRIM` records for a primitive (R70). -/
def Prim.code : Prim → Byte
  | .init => 0#8
  | .setOutput _ => 1#8
  | .setTristate _ => 2#8
  | .readInput => 3#8
  | .setSupplyVoltage _ => 4#8
  | .enableSupply _ => 5#8
  | .assignSupplyPins _ => 6#8
  | .assignGroundPins _ => 7#8

/-- The effect of a primitive that completed on its device's port (R71). -/
def Prim.apply (p : Prim) (d : Port) : Port :=
  match p with
  | .init => d
  | .setOutput m => { d with out := some m }
  | .setTristate m => { d with tri := some m }
  | .readInput => d
  | .setSupplyVoltage x => { d with vlevel := some x }
  | .enableSupply b => { d with supEn := some b }
  | .assignSupplyPins m => { d with sup := .pins m }
  | .assignGroundPins m => { d with gnd := .pins m }

/-- The effect of a primitive that raised `TransportError`: the field it would have written is unknown (R73). -/
def Prim.spoil (p : Prim) (d : Port) : Port :=
  match p with
  | .init => d
  | .setOutput _ => { d with out := none }
  | .setTristate _ => { d with tri := none }
  | .readInput => d
  | .setSupplyVoltage _ => { d with vlevel := none }
  | .enableSupply _ => { d with supEn := none }
  | .assignSupplyPins _ => { d with sup := .lost }
  | .assignGroundPins _ => { d with gnd := .lost }

/-- `TransportError(pin = 0, slot = k, prim = code)` (R164, R281). -/
def transportError (k : Nat) (p : Prim) : Raise :=
  { status := .transportError, pin := 0#16, slot := BitVec.ofNat 8 k, prim := p.code }

/-- The state after a primitive on slot `k`: the port, the trace's event, the environment's answers used up. -/
def afterPrim (k : Nat) (p : Prim) (result : PrimResult) (d : Port) (e : Env) (s : State) : State :=
  { s with ports := s.ports.set k d, trace := s.trace ++ [.dev k p result], env := e }

/-- `Dev(k).prim` for a primitive that returns nothing (R70, R71, R73). -/
def issue (k : Nat) (p : Prim) (s : State) : Run Unit :=
  match s.env.drawTransport with
  | (true, e) =>
    .error (transportError k p) (afterPrim k p .transportError (p.spoil (s.ports.get k)) e s)
  | (false, e) => .done () (afterPrim k p .ok (p.apply (s.ports.get k)) e s)

/-- `Dev(k).read_input()` (R70, R72, R73). -/
def issueRead (k : Nat) (s : State) : Run LMask :=
  match s.env.drawTransport with
  | (true, e) =>
    .error (transportError k .readInput) (afterPrim k .readInput .transportError (s.ports.get k) e s)
  | (false, e) =>
    match e.drawInput with
    | (i, e') =>
      .done ((s.ports.get k).input i)
        (afterPrim k .readInput (.levels ((s.ports.get k).input i)) (s.ports.get k) e' s)

/-- One primitive per slot of the list, in order, each after the previous has returned; a failure ends it and the
slots after it are not issued (R74, R164). -/
def issueAll (p : Nat → Prim) : List Nat → State → Run Unit
  | [], s => .done () s
  | k :: ks, s => (issue k (p k) s).andThen fun _ s' => issueAll p ks s'

/-- One `read_input` per slot of the list, in order, gathering the masks (R167). -/
def readAll : List Nat → PerSlot LMask → State → Run (PerSlot LMask)
  | [], I, s => .done I s
  | k :: ks, I, s => (issueRead k s).andThen fun m s' => readAll ks (I.set k m) s'

/-- The masked primitives of the vector writes (R164). -/
inductive MaskOp where
  | output | tristate | supplyPins | groundPins
deriving DecidableEq, Repr

/-- The primitive a masked write issues with a slot's local mask (R164, R165 to R169). -/
def MaskOp.prim (op : MaskOp) (m : LMask) : Prim :=
  match op with
  | .output => .setOutput m
  | .tristate => .setTristate m
  | .supplyPins => .assignSupplyPins m
  | .groundPins => .assignGroundPins m

/-- `BUS_UNKNOWN` after a vector write completed on every bound slot: cleared by a tri-state (R32, R164). -/
def MaskOp.settle (op : MaskOp) (s : State) : State :=
  match op with
  | .tristate => { s with busUnknown := false }
  | .output => s
  | .supplyPins => s
  | .groundPins => s

/-- `vec_write(prim, m, order)` (R164): every translation error before any primitive; then each bound slot's mask,
or 0, in the given order. -/
def vecWrite (op : MaskOp) (m : VMask) (order : List Nat) (s : State) : Run Unit :=
  match fanOut s.cfg m with
  | .error e => .error e s
  | .ok L => (issueAll (fun k => op.prim (L.get k)) order s).andThen fun _ s' => .done () (op.settle s')

/-- `vread()`, the body of READ without the gate: one `read_input` per bound slot ascending, then the fan-in
(R167, R204). -/
def vecRead (s : State) : Run VMask :=
  (readAll s.cfg.boundSlots (PerSlot.tabulate fun _ => 0#40) s).andThen fun I s' => .done (aggregate s'.cfg I) s'

/-! ### Target memory -/

/-- `MemRead(a, 1)` with its event (R41, R75). -/
def memRead (a : Nat) (s : State) : Byte × State :=
  (s.mem.read a, { s with trace := s.trace ++ [.memRead a (s.mem.read a)] })

/-- `MemWrite(a, 1, v)` with its event (R41, R75). -/
def memWrite (a : Nat) (v : Byte) (s : State) : State :=
  { s with mem := s.mem.write a v, trace := s.trace ++ [.memWrite a v] }

end Sys2Proof.Machine
end

