-- ==== Sys2Proof/Machine/BusCycle.lean ====
section
/-!
DEFINITION. The bus-cycle sequencer (spec 42_bus_cycle.md): the actions of each phase, the transaction they make
up, the command `BUS_CYCLE`, and the same actions one at a time for the free-run worker. The sampled address and
the data byte go from action to action in `CUR_ADDR` and `CUR_VALUE` (notes/assumptions/10.md). Settle delays
are no step and no event (R345).
-/

namespace Sys2Proof.Machine

/-! ### The actions -/

/-- The precheck (R202), and the phase change to `Floating` when it passes (R201). -/
def precheck (s : State) : Run Unit :=
  match s.rmStatus with
  | .ok => .done () (setPhase .floating s)
  | st => .error { status := st, pin := s.rmErrPin, slot := s.rmErrSlot, prim := noneByte } s

/-- The `Floating` tri-state (R203). -/
def floatBus (s : State) : Run Unit := vecWrite .tristate (floatMask s.cfg) s.cfg.boundSlots s

/-- The direction the sampled `rw_pin` bit means (R204). -/
def decodeDirection (c : Config) (input : VMask) : Direction :=
  if input.getLsbD (bitOfPin c.roleMap.rwPin) = c.rwReadLevel then .read else .write

/-- The address decoded from the sample, bit `i` from `address_bits[i]` (R204). -/
def decodeAddress (c : Config) (input : VMask) : Word :=
  BitVec.ofNat 32 (sampleBits input c.roleMap.addressBits)

/-- Sample the bus and latch address and direction (R204). No `READ_REG` falls between the writes of `CUR_ADDR` and
`CUR_DIR`: DESIGN CHOICE (notes/assumptions/24.md). -/
def sampleBus (s : State) : Run Unit :=
  (vecRead s).andThen fun input s' =>
    .done () { s' with curAddr := decodeAddress s'.cfg input, curDir := decodeDirection s'.cfg input }

/-- The branch on the sampled direction (R205). -/
def branchPhase (s : State) : State :=
  match s.curDir with
  | .read => setPhase .readDrive s
  | .write => setPhase .writeCapture s

/-- `ReadDrive`: the data bits become driven (R206). -/
def readEnable (s : State) : Run Unit := vecWrite .tristate (readTriMask s.cfg) s.cfg.boundSlots s

/-- `ReadDrive`: `v <- MemRead(a, 1) ; CUR_VALUE <- v` (R206). -/
def readFetch (s : State) : Run Unit :=
  match memRead s.curAddr.toNat s with
  | (v, s') => .done () { s' with curValue := v }

/-- A `set_output` of the sequencer: the clock level, the always-driven pins, and the data byte if it is driven, the
clock's slot last (R24, R74). -/
def driveClock (clk : Bool) (v : Option Byte) (s : State) : Run Unit :=
  vecWrite .output (driveMask s.cfg clk v) (clockLastSlots s.cfg) s

/-- `ReadDrive`: data on the lines and the clock high (R206). -/
def readClockHigh (s : State) : Run Unit := driveClock true (some s.curValue) s

/-- `ReadDrive`: the clock low, the data still driven (R206). -/
def readClockLow (s : State) : Run Unit := driveClock false (some s.curValue) s

/-- `WriteCapture`: the clock high, the data bits still tri-stated (R207). -/
def writeClockHigh (s : State) : Run Unit := driveClock true none s

/-- `WriteCapture`: sample the data byte, bit `i` from `data_bits[i]` (R207). -/
def writeSample (s : State) : Run Unit :=
  (vecRead s).andThen fun input s' =>
    .done () { s' with curValue := BitVec.ofNat 8 (sampleBits input (s'.cfg.roleMap.dataBits.take 8)) }

/-- `WriteCapture`: `MemWrite(a, 1, v)` (R207). -/
def writeStore (s : State) : Run Unit := .done () (memWrite s.curAddr.toNat s.curValue s)

/-- `WriteCapture`: the clock low (R207). -/
def writeClockLow (s : State) : Run Unit := driveClock false none s

/-- `Settled`: the record (R208). No `READ_REG` falls between the writes of `LAST_ADDR`, `LAST_VALUE`, `LAST_DIR`,
`LAST_VALID` and `TXN_COUNT`: DESIGN CHOICE (notes/assumptions/24.md). -/
def settleRecord (s : State) : State :=
  { s with lastAddr := s.curAddr, lastValue := s.curValue, lastDir := s.curDir, lastValid := true,
           txnCount := s.txnCount + 1#32, trace := s.trace ++ [.record s.curAddr s.curValue s.curDir] }

/-! ### One transaction -/

/-- `read_drive(a)`, the `ReadDrive` phase (R206). -/
def readDrive (s : State) : Run Unit :=
  (readEnable s).andThen fun _ s =>
  (readFetch s).andThen fun _ s =>
  (readClockHigh s).andThen fun _ s =>
  readClockLow s

/-- `write_capture(a)`, the `WriteCapture` phase (R207). -/
def writeCapture (s : State) : Run Unit :=
  (writeClockHigh s).andThen fun _ s =>
  (writeSample s).andThen fun _ s =>
  (writeStore s).andThen fun _ s =>
  writeClockLow s

/-- The body of a transaction, from the precheck to the return to `Idle` (R200). -/
def transaction (s : State) : Run Unit :=
  (precheck s).andThen fun _ s =>
  (floatBus s).andThen fun _ s =>
  (sampleBus (setPhase .sampled s)).andThen fun _ s =>
  (match s.curDir with
   | .read => readDrive (branchPhase s)
   | .write => writeCapture (branchPhase s)).andThen fun _ s =>
  .done () (setPhase .idle (settleRecord (setPhase .settled s)))

/-- The result bytes of a transaction: address, value, direction (R105, R110). -/
def recordBytes (s : State) : List Byte := leBytes 4 s.lastAddr.toNat ++ [s.lastValue, s.lastDir.code]

/-- `BUS_CYCLE` (R200). -/
def execBusCycle (s : State) : Host.Outcome State Fault Refusal :=
  .next <| whenReady s fun s => withGate s fun s =>
    (transaction s).andThen fun _ s' => .done (recordBytes s') s'

/-! ### The same actions one at a time -/

/-- What one action of a transaction does. -/
def TxnStage.run (st : TxnStage) (s : State) : Run Unit :=
  match st with
  | .precheck => Machine.precheck s
  | .floatBus => Machine.floatBus s
  | .enterSampled => .done () (setPhase .sampled s)
  | .sample => sampleBus s
  | .branch => .done () (branchPhase s)
  | .readEnable => Machine.readEnable s
  | .readFetch => Machine.readFetch s
  | .readClockHigh => Machine.readClockHigh s
  | .readClockLow => Machine.readClockLow s
  | .writeClockHigh => Machine.writeClockHigh s
  | .writeCapture => writeSample s
  | .writeStore => Machine.writeStore s
  | .writeClockLow => Machine.writeClockLow s
  | .enterSettled => .done () (setPhase .settled s)
  | .settle => .done () (settleRecord s)
  | .enterIdle => .done () (setPhase .idle s)

/-- The action after one that completed, by the direction latched; none after the last (R201, R205). -/
def TxnStage.after (st : TxnStage) (dir : Direction) : Option TxnStage :=
  match st with
  | .precheck => some .floatBus
  | .floatBus => some .enterSampled
  | .enterSampled => some .sample
  | .sample => some .branch
  | .branch =>
    match dir with
    | .read => some .readEnable
    | .write => some .writeClockHigh
  | .readEnable => some .readFetch
  | .readFetch => some .readClockHigh
  | .readClockHigh => some .readClockLow
  | .readClockLow => some .enterSettled
  | .writeClockHigh => some .writeCapture
  | .writeCapture => some .writeStore
  | .writeStore => some .writeClockLow
  | .writeClockLow => some .enterSettled
  | .enterSettled => some .settle
  | .settle => some .enterIdle
  | .enterIdle => none

end Sys2Proof.Machine
end

