-- ==== Sys2Proof/Machine/Control.lean ====
section
/-!
DEFINITION. Free-run and register access (spec 43_control.md): `FREE_RUN_START`, `FREE_RUN_CANCEL`, `READ_REG`,
and the free-run worker's own steps.
-/

namespace Sys2Proof.Machine

/-- `FREE_RUN_START` (R252): no effect while the worker runs. -/
def execFreeRunStart (s : State) : Host.Outcome State Fault Refusal :=
  .next <| whenReady s fun s =>
    complete []
      (if s.frRunning then s
       else { s with frCancel := false, frStatus := .ok, frRunning := true, frStage := .boundary })

/-- `FREE_RUN_CANCEL` (R254): no effect while no worker runs. -/
def execFreeRunCancel (s : State) : Host.Outcome State Fault Refusal :=
  .next <| whenReady s fun s => complete [] (if s.frRunning then { s with frCancel := true } else s)

/-- `READ_REG reg` (R257): in both modes, no gate, no register written, `LAST_STATUS` neither. -/
def execReadReg (r : Reg) (s : State) : Host.Outcome State Fault Refusal :=
  .next (respond (Status.ok.code :: leBytes 4 (regValue r s).toNat) s)

/-- The worker stops (R253, label `stop`). No `READ_REG` falls between the writes of `FR_RUNNING` and `FR_CANCEL`:
DESIGN CHOICE (notes/assumptions/24.md). -/
def workerStop (s : State) : State :=
  { s with frRunning := false, frCancel := false, frStage := .boundary }

/-- After an action of the worker's transaction: the next action, or the release of the gate; an error is raised
and the worker is to stop (R253, R256). -/
def workerAfter (st : TxnStage) (r : Run Unit) : State :=
  match r with
  | .done _ s =>
    match st.after s.curDir with
    | some st' => { s with frStage := .txn st' }
    | none => { s with frStage := .release }
  | .error e s => { raiseWorker e s with frStage := .stopping }

/-- One step of the free-run worker (R253, R255). -/
def workerStep (s : State) : State :=
  match s.frStage with
  | .boundary => if s.frCancel then workerStop s else { s with frStage := .acquire }
  | .acquire =>
    match s.gateOwner with
    | .free => { s with gateOwner := .freerun, frStage := .txn .precheck }
    | .host => s
    | .freerun => s
  | .txn st => workerAfter st (st.run s)
  | .release => { releaseGate .freerun s with frStage := .report }
  | .report => { s with frStatus := .ok, frStage := .boundary }
  | .stopping => workerStop s

/-! ### Who can move -/

/-- The command at the head of the port, decoded (R100): none when no command waits. -/
def fetch (s : State) : Option (Except DecodeError Instr) :=
  match s.cmds with
  | [] => none
  | cmd :: _ => some (decode s.cfg.nslots cmd)

/-- The host port has a step: a command is waiting, and it is not one that waits for the gate. An undecodable
command waits for nothing (R288), nor does a command refused in `FAILED` mode (R300). -/
def hostReady (s : State) : Bool :=
  match fetch s with
  | none => false
  | some (.error _) => true
  | some (.ok i) => !i.opcode.needsGate || decide (s.mode = .failed) || decide (s.gateOwner = .free)

/-- The worker has a step: it runs, and it does not wait for the gate (R250, R253). -/
def workerReady (s : State) : Bool :=
  s.frRunning && (decide (s.frStage ≠ .acquire) || decide (s.gateOwner = .free))

/-- Which agent moves: the only one that can, or the environment's choice when both can (R250, R258). -/
def chooseAgent (s : State) : Option Agent × State :=
  match hostReady s, workerReady s with
  | false, false => (none, s)
  | true, false => (some .host, s)
  | false, true => (some .freerun, s)
  | true, true =>
    match s.env.drawAgent with
    | (a, e) => (some a, { s with env := e })

end Sys2Proof.Machine
end

