-- ==== Sys2Proof/Machine/Registry.lean ====
section
/-!
DEFINITION. The PinRegistry commands (spec 40_registry.md R141, R143).
-/

namespace Sys2Proof.Machine

/-- `RESOLVE vpin` (R141): answers the slot and local pin; it never reads `BOUND`. -/
def execResolve (vpin : BitVec 16) (s : State) : Host.Outcome State Fault Refusal :=
  .next <| whenReady s fun s =>
    match res s.cfg (Int.ofNat vpin.toNat) with
    | none => raiseHost (unmappedPin (Int.ofNat vpin.toNat)) s
    | some (k, l) => complete [BitVec.ofNat 8 k, BitVec.ofNat 8 l] s

/-- `PINS_FOR_SLOT slot` (R143): `IllegalCommand` outside the enumeration, before the mode check (R290). -/
def execPinsForSlot (slot : Byte) (s : State) : Host.Outcome State Fault Refusal :=
  .next <|
    if slot.toNat < s.cfg.nslots then
      whenReady s fun s => complete (vmaskBytes s.cfg.nslots (pinsForSlot s.cfg slot.toNat)) s
    else raiseIllegal s

end Sys2Proof.Machine
end

