-- ==== Sys2Proof/Machine/VirtualBus.lean ====
section
/-!
DEFINITION. The VirtualBus commands (spec 41_virtual_bus.md R161, R163, R165 to R171).
-/

namespace Sys2Proof.Machine

/-- `FAN_OUT mask` (R161): a query; no primitive, no gate. -/
def execFanOut (m : VMask) (s : State) : Host.Outcome State Fault Refusal :=
  .next <| whenReady s fun s =>
    match fanOut s.cfg m with
    | .error e => raiseHost e s
    | .ok L => complete (lmasksBytes s.cfg.nslots L) s

/-- `AGGREGATE per_slot` (R163): a query that never fails. -/
def execAggregate (I : PerSlot LMask) (s : State) : Host.Outcome State Fault Refusal :=
  .next <| whenReady s fun s => complete (vmaskBytes s.cfg.nslots (aggregate s.cfg I)) s

/-- A masked write command: the vector write on the bound slots ascending, under the gate (R164). -/
def maskedWrite (op : MaskOp) (m : VMask) (s : State) : State :=
  whenReady s fun s => withGate s fun s =>
    (vecWrite op m s.cfg.boundSlots s).andThen fun _ s' => .done [] s'

/-- A global supply command: one primitive, the same for every bound slot ascending, under the gate (R170). -/
def supplyWrite (p : Prim) (s : State) : State :=
  whenReady s fun s => withGate s fun s =>
    (issueAll (fun _ => p) s.cfg.boundSlots s).andThen fun _ s' => .done [] s'

/-- `DRIVE mask` (R165). -/
def execDrive (m : VMask) (s : State) : Host.Outcome State Fault Refusal :=
  .next (maskedWrite .output m s)

/-- `TRI_STATE mask` (R166). -/
def execTriState (m : VMask) (s : State) : Host.Outcome State Fault Refusal :=
  .next (maskedWrite .tristate m s)

/-- `READ` (R167): one `read_input` per bound slot, then the fan-in. -/
def execRead (s : State) : Host.Outcome State Fault Refusal :=
  .next <| whenReady s fun s => withGate s fun s =>
    (vecRead s).andThen fun input s' => .done (vmaskBytes s'.cfg.nslots input) s'

/-- `ASSIGN_GROUND mask` (R168). -/
def execAssignGround (m : VMask) (s : State) : Host.Outcome State Fault Refusal :=
  .next (maskedWrite .groundPins m s)

/-- `ASSIGN_SUPPLY_PINS mask` (R169). -/
def execAssignSupplyPins (m : VMask) (s : State) : Host.Outcome State Fault Refusal :=
  .next (maskedWrite .supplyPins m s)

/-- `SET_SUPPLY_VOLTAGE level` (R170): the two's complement level, passed unchanged. -/
def execSetSupplyVoltage (level : Word) (s : State) : Host.Outcome State Fault Refusal :=
  .next (supplyWrite (.setSupplyVoltage level.toInt) s)

/-- `ENABLE_SUPPLY on` (R171). -/
def execEnableSupply (on : Bool) (s : State) : Host.Outcome State Fault Refusal :=
  .next (supplyWrite (.enableSupply on) s)

end Sys2Proof.Machine
end

