-- ==== Sys2Proof/Machine/Dispatch.lean ====
section
/-!
DEFINITION. The meaning of every command, one arm per constructor of `Instr`.
-/

namespace Sys2Proof.Machine

open Sys2Proof

def exec (i : Instr) (s : State) : Host.Outcome State Fault Refusal :=
  match i with
  | .resolve vpin => Sys2Proof.Machine.execResolve vpin s
  | .pinsForSlot slot => Sys2Proof.Machine.execPinsForSlot slot s
  | .fanOut mask => Sys2Proof.Machine.execFanOut mask s
  | .aggregate perSlot => Sys2Proof.Machine.execAggregate perSlot s
  | .drive mask => Sys2Proof.Machine.execDrive mask s
  | .triState mask => Sys2Proof.Machine.execTriState mask s
  | .read => Sys2Proof.Machine.execRead s
  | .assignGround mask => Sys2Proof.Machine.execAssignGround mask s
  | .assignSupplyPins mask => Sys2Proof.Machine.execAssignSupplyPins mask s
  | .setSupplyVoltage level => Sys2Proof.Machine.execSetSupplyVoltage level s
  | .enableSupply on => Sys2Proof.Machine.execEnableSupply on s
  | .busCycle => Sys2Proof.Machine.execBusCycle s
  | .freeRunStart => Sys2Proof.Machine.execFreeRunStart s
  | .freeRunCancel => Sys2Proof.Machine.execFreeRunCancel s
  | .readReg reg => Sys2Proof.Machine.execReadReg reg s

end Sys2Proof.Machine
end

