-- ==== Sys2Proof/Machine/Step.lean ====
section
/-!
DEFINITION. One step of the block: one command of the host port or one action of the free-run worker, whichever
agent moves (spec 60_exceptions.md R295, 43_control.md R250, R258).
-/

namespace Sys2Proof.Machine

/-- The host port's step: the command at the head of the port, decoded and run, or `IllegalCommand`. -/
def hostStep (s : State) : Host.Outcome State Fault Refusal :=
  match fetch s with
  | none => .next s
  | some (.ok i) => exec i s
  | some (.error _) => .next (raiseIllegal s)

/-- One step. When no agent can move the block is idle and holds all state (R299; notes/assumptions/8.md). -/
def step (s : State) : Host.Outcome State Fault Refusal :=
  match chooseAgent s with
  | (some .host, s') => hostStep s'
  | (some .freerun, s') => .next (workerStep s')
  | (none, s') => .next s'

/-- Send the command with these bits ahead of every other, and let the host port move first if the free-run
worker is running: the next step runs it (a command that takes the gate: once the gate is free). -/
def State.withFetchWord (s : State) (nbits w : Nat) : State :=
  { s with
    cmds := tableBytes s.cfg.nslots nbits w :: s.cmds,
    env := if s.frRunning then { s.env with schedule := .host :: s.env.schedule } else s.env }

end Sys2Proof.Machine
end

