-- ==== Sys2Proof/Machine/Assembler.lean ====
section
/-!
DEFINITION. The pseudo-commands (spec 30_encoding.md R112) and the assembler syntax (R111): one line of text to
the commands it stands for. No step of the machine uses this file.
-/

namespace Sys2Proof.Machine

/-- The expansion of a pseudo-command (R112). -/
def Pseudo.expand (c : Config) : Pseudo → List Instr
  | .floatAll => [.triState (allBoundMask c)]
  | .setup => [.triState (allBoundMask c), .drive (driveMask c false none)]
  | .powerOn level supply ground =>
    [.assignGround ground, .assignSupplyPins supply, .setSupplyVoltage level, .enableSupply true]
  | .powerOff => [.enableSupply false]
  | .step count => List.replicate count .busCycle

/-- The mnemonics of R105. -/
def Opcode.mnemonic : Opcode → String
  | .resolve => "RESOLVE"
  | .pinsForSlot => "PINS_FOR_SLOT"
  | .fanOut => "FAN_OUT"
  | .aggregate => "AGGREGATE"
  | .drive => "DRIVE"
  | .triState => "TRI_STATE"
  | .read => "READ"
  | .assignGround => "ASSIGN_GROUND"
  | .assignSupplyPins => "ASSIGN_SUPPLY_PINS"
  | .setSupplyVoltage => "SET_SUPPLY_VOLTAGE"
  | .enableSupply => "ENABLE_SUPPLY"
  | .busCycle => "BUS_CYCLE"
  | .freeRunStart => "FREE_RUN_START"
  | .freeRunCancel => "FREE_RUN_CANCEL"
  | .readReg => "READ_REG"

/-- The register names of R38. -/
def Reg.name : Reg → String
  | .mode => "MODE"
  | .phase => "PHASE"
  | .flags => "FLAGS"
  | .lastStatus => "LAST_STATUS"
  | .frStatus => "FR_STATUS"
  | .errPin => "ERR_PIN"
  | .errSlot => "ERR_SLOT"
  | .errPrim => "ERR_PRIM"
  | .errSrc => "ERR_SRC"
  | .lastAddr => "LAST_ADDR"
  | .lastValue => "LAST_VALUE"
  | .lastDir => "LAST_DIR"
  | .txnCount => "TXN_COUNT"
  | .seq => "SEQ"
  | .rmStatus => "RM_STATUS"
  | .rmErrPin => "RM_ERR_PIN"
  | .rmErrSlot => "RM_ERR_SLOT"
  | .cfgNslots => "CFG_NSLOTS"
  | .cfgN => "CFG_N"
  | .cfgBound => "CFG_BOUND"
  | .cfgAw => "CFG_AW"
  | .cfgRwReadLevel => "CFG_RW_READ_LEVEL"
  | .cfgTTri => "CFG_T_TRI"
  | .cfgTClk => "CFG_T_CLK"
  | .curAddr => "CUR_ADDR"
  | .curValue => "CUR_VALUE"
  | .curDir => "CUR_DIR"

/-- The tokens of a line: words of letters, digits and `_`, and the marks R111 uses. -/
inductive Token where
  | word (w : List Char)
  | openBrace | closeBrace | openBracket | closeBracket | openParen | closeParen
  | comma | dot | minus
deriving DecidableEq, Repr

/-- The mark a character is, if it is one. -/
def markOf (ch : Char) : Option Token :=
  if ch = Char.ofNat 123 then some .openBrace
  else if ch = Char.ofNat 125 then some .closeBrace
  else if ch = '[' then some .openBracket
  else if ch = ']' then some .closeBracket
  else if ch = '(' then some .openParen
  else if ch = ')' then some .closeParen
  else if ch = ',' then some .comma
  else if ch = '.' then some .dot
  else if ch = '-' then some .minus
  else none

/-- The word read so far (its letters last first), as a token before the rest. -/
def flushWord (acc : List Char) (rest : List Token) : List Token :=
  match acc with
  | [] => rest
  | _ :: _ => .word acc.reverse :: rest

/-- The tokens of a line, `acc` being the letters of the word under way, last first. A `;` starts a comment (R111);
none for a character the syntax does not use. -/
def lex (acc : List Char) : List Char → Option (List Token)
  | [] => some (flushWord acc [])
  | ch :: rest =>
    if ch = ';' then some (flushWord acc [])
    else if ch = ' ' ∨ ch = '\t' then (lex [] rest).map (flushWord acc)
    else
      match markOf ch with
      | some t => (lex [] rest).map fun ts => flushWord acc (t :: ts)
      | none => if ch.isAlphanum ∨ ch = '_' then lex (ch :: acc) rest else none

/-- The value of one digit in base 10 or 16. -/
def digitValue (hex : Bool) (ch : Char) : Option Nat :=
  if '0' ≤ ch ∧ ch ≤ '9' then some (ch.toNat - '0'.toNat)
  else if hex ∧ 'a' ≤ ch ∧ ch ≤ 'f' then some (ch.toNat - 'a'.toNat + 10)
  else if hex ∧ 'A' ≤ ch ∧ ch ≤ 'F' then some (ch.toNat - 'A'.toNat + 10)
  else none

/-- The number the remaining digits make after `acc`. -/
def digitsValue (hex : Bool) (acc : Nat) : List Char → Option Nat
  | [] => some acc
  | ch :: rest =>
    match digitValue hex ch with
    | some d => digitsValue hex (acc * (if hex then 16 else 10) + d) rest
    | none => none

/-- "a decimal integer, or hexadecimal with `0x`" (R111). -/
def numberValue (w : List Char) : Option Nat :=
  match w with
  | [] => none
  | '0' :: 'x' :: [] => none
  | '0' :: 'x' :: digits => digitsValue true 0 digits
  | digits => digitsValue false 0 digits

/-- A number of at most `bound - 1` as the one token of an operand. -/
def numberOperand (bound : Nat) : List Token → Option Nat
  | [.word w] =>
    match numberValue w with
    | some n => if n < bound then some n else none
    | none => none
  | _ => none

/-- A level: an `i32`, negative with a leading `-`. -/
def levelOperand : List Token → Option Word
  | .minus :: ts => (numberOperand (2 ^ 31 + 1) ts).map fun n => BitVec.ofInt 32 (-(Int.ofNat n))
  | ts => (numberOperand (2 ^ 31) ts).map fun n => BitVec.ofNat 32 n

/-- A register, by name or by number (R111). -/
def regOperand : List Token → Option Reg
  | [.word w] =>
    match Reg.all.find? fun r => (Reg.name r).toList == w with
    | some r => some r
    | none =>
      match numberOperand 256 [.word w] with
      | some n => Reg.ofNumber (BitVec.ofNat 8 n)
      | none => none
  | _ => none

/-- The pins of a braced set up to its closing brace: numbers and ranges `a..b`, separated by commas. -/
def pinRanges : List Token → Option (List (Nat × Nat))
  | [.word a, .closeBrace] => (numberValue a).map fun n => [(n, n)]
  | .word a :: .comma :: rest =>
    match numberValue a, pinRanges rest with
    | some n, some rs => some ((n, n) :: rs)
    | _, _ => none
  | [.word a, .dot, .dot, .word b, .closeBrace] =>
    match numberValue a, numberValue b with
    | some m, some n => some [(m, n)]
    | _, _ => none
  | .word a :: .dot :: .dot :: .word b :: .comma :: rest =>
    match numberValue a, numberValue b, pinRanges rest with
    | some m, some n, some rs => some ((m, n) :: rs)
    | _, _, _ => none
  | _ => none

/-- `mask(S)` of a set of pin ranges, all within `1..N`. -/
def rangesMask (c : Config) (rs : List (Nat × Nat)) : Option VMask :=
  if rs.all fun r => decide (1 ≤ r.1) && decide (r.1 ≤ r.2) && decide (r.2 ≤ c.numPins) then
    some (maskOf c.numPins fun k => rs.any fun r => decide (r.1 ≤ k + 1) && decide (k + 1 ≤ r.2))
  else none

/-- A `VMASK`: a set of pins in braces or a named set (R111). -/
def maskOperand (c : Config) : List Token → Option VMask
  | [.openBrace, .closeBrace] => some 0#160
  | .openBrace :: ts =>
    match pinRanges ts with
    | some rs => rangesMask c rs
    | none => none
  | [.word w] =>
    if w = "ALL_BOUND".toList then some (allBoundMask c)
    else if w = "FLOAT_MASK".toList then some (floatMask c)
    else if w = "RD_TRI_MASK".toList then some (readTriMask c)
    else none
  | [.word w, .openParen, .word clk, .closeParen] =>
    if w = "DRIVE_MASK".toList then
      match numberOperand 2 [.word clk] with
      | some n => some (driveMask c (decide (n = 1)) none)
      | none => none
    else none
  | _ => none

/-- The local masks of a bracketed list up to its closing bracket. -/
def lmaskItems : List Token → Option (List LMask)
  | [.word a, .closeBracket] => (numberOperand (2 ^ 40) [.word a]).map fun n => [BitVec.ofNat 40 n]
  | .word a :: .comma :: rest =>
    match numberOperand (2 ^ 40) [.word a], lmaskItems rest with
    | some n, some ms => some (BitVec.ofNat 40 n :: ms)
    | _, _ => none
  | _ => none

/-- `LMASKS`: a bracketed list of `NSLOTS` local masks (R111). -/
def lmasksOperand (c : Config) : List Token → Option (PerSlot LMask)
  | .openBracket :: ts =>
    match lmaskItems ts with
    | some ms => if ms.length = c.nslots then some (PerSlot.tabulate fun k => ms.getD k 0#40) else none
    | none => none
  | _ => none

/-- The operands of a line: the tokens between the commas that stand outside braces, brackets and parentheses.
`acc` is the operand under way, its tokens last first. -/
def splitOperands (depth : Nat) (acc : List Token) : List Token → List (List Token)
  | [] => [acc.reverse]
  | t :: ts =>
    match t with
    | .comma => if depth = 0 then acc.reverse :: splitOperands 0 [] ts else splitOperands depth (t :: acc) ts
    | .openBrace => splitOperands (depth + 1) (t :: acc) ts
    | .openBracket => splitOperands (depth + 1) (t :: acc) ts
    | .openParen => splitOperands (depth + 1) (t :: acc) ts
    | .closeBrace => splitOperands (depth - 1) (t :: acc) ts
    | .closeBracket => splitOperands (depth - 1) (t :: acc) ts
    | .closeParen => splitOperands (depth - 1) (t :: acc) ts
    | .word _ => splitOperands depth (t :: acc) ts
    | .dot => splitOperands depth (t :: acc) ts
    | .minus => splitOperands depth (t :: acc) ts

/-- The operands after a mnemonic: none if nothing follows it. -/
def operandsOf (ts : List Token) : List (List Token) :=
  match ts with
  | [] => []
  | _ :: _ => splitOperands 0 [] ts

/-- One command from its opcode and operands (R105, R111). -/
def assembleCommand (c : Config) (op : Opcode) (operands : List (List Token)) : Option Instr :=
  match op, operands with
  | .resolve, [a] => (numberOperand (2 ^ 16) a).map fun n => .resolve (BitVec.ofNat 16 n)
  | .pinsForSlot, [a] => (numberOperand (2 ^ 8) a).map fun n => .pinsForSlot (BitVec.ofNat 8 n)
  | .fanOut, [a] => (maskOperand c a).map .fanOut
  | .aggregate, [a] => (lmasksOperand c a).map .aggregate
  | .drive, [a] => (maskOperand c a).map .drive
  | .triState, [a] => (maskOperand c a).map .triState
  | .read, [] => some .read
  | .assignGround, [a] => (maskOperand c a).map .assignGround
  | .assignSupplyPins, [a] => (maskOperand c a).map .assignSupplyPins
  | .setSupplyVoltage, [a] => (levelOperand a).map .setSupplyVoltage
  | .enableSupply, [a] => (numberOperand 2 a).map fun n => .enableSupply (decide (n = 1))
  | .busCycle, [] => some .busCycle
  | .freeRunStart, [] => some .freeRunStart
  | .freeRunCancel, [] => some .freeRunCancel
  | .readReg, [a] => (regOperand a).map .readReg
  | _, _ => none

/-- A pseudo-command from its name and operands (R112). -/
def assemblePseudo (c : Config) (w : List Char) (operands : List (List Token)) : Option Pseudo :=
  match operands with
  | [] =>
    if w = "FLOAT_ALL".toList then some .floatAll
    else if w = "SETUP".toList then some .setup
    else if w = "POWER_OFF".toList then some .powerOff
    else none
  | [a] => if w = "STEP".toList then (numberOperand (2 ^ 32) a).map .step else none
  | [a, b, d] =>
    if w = "POWER_ON".toList then
      match levelOperand a, maskOperand c b, maskOperand c d with
      | some level, some supply, some ground => some (.powerOn level supply ground)
      | _, _, _ => none
    else none
  | _ => none

/-- The commands one line of text stands for (R111, R112): none for a line that is not of the syntax, the empty
list for a blank line or a comment. -/
def assemble (c : Config) (line : List Char) : Option (List Instr) :=
  match lex [] line with
  | none => none
  | some [] => some []
  | some (.word w :: ts) =>
    match Opcode.all.find? fun op => (Opcode.mnemonic op).toList == w with
    | some op => (assembleCommand c op (operandsOf ts)).map fun i => [i]
    | none => (assemblePseudo c w (operandsOf ts)).map (Pseudo.expand c)
  | some (_ :: _) => none

end Sys2Proof.Machine
end

