-- ==== Sys2Proof/Safety.lean ====
section
/-!
DEFINITION. The terms claims are stated in: data-bus ownership (spec 10_state.md R36), the electrical result at a
pin (20_memory.md R71), what the trace must show (20_memory.md R80, R81), the well-formedness of a state, and the
fairness assumption (43_control.md R258).
-/

namespace Sys2Proof.Machine

/-- What the rules say of one device pin (R71). -/
inductive PinLevel where
  /-- In tri-state: the target may drive it. -/
  | triStated
  /-- Driven by the device to this level. -/
  | driven (level : Bool)
  /-- A setting the result depends on is unknown: no level is claimed (R39, R73, U1, U6). -/
  | unknown
  /-- Assigned to ground or supply: no source gives the level, and the model must not claim one (R71, U7). -/
  | notGiven
deriving DecidableEq, Repr

/-- A setting is known to assign local pin `l`. -/
def assigns (setting : Option LMask) (l : Nat) : Bool := setting.any fun m => m.getLsbD (l - 1)

/-- The electrical result at local pin `l` of a port (R71): stated only while the ground and supply settings are both
known and assign the pin to neither (U1, U6, U7; notes/assumptions/13.md). -/
def Port.level (p : Port) (l : Nat) : PinLevel :=
  if assigns p.gnd.value l || assigns p.sup.value l then .notGiven
  else
    match p.gnd.value, p.sup.value, p.tri with
    | some _, some _, some t =>
      if t.getLsbD (l - 1) then .triStated
      else
        match p.out with
        | none => .unknown
        | some o => .driven (o.getLsbD (l - 1))
    | _, _, _ => .unknown

/-- The device tri-state bit of virtual pin `p`, if the pin is mapped and its setting known. -/
def triBit (s : State) (p : VPin) : Option Bool :=
  match res s.cfg p with
  | some (k, l) => (s.ports.get k).tri.map fun t => t.getLsbD (l - 1)
  | none => none

/-- The device output bit of virtual pin `p`, if the pin is mapped and its setting known. -/
def outBit (s : State) (p : VPin) : Option Bool :=
  match res s.cfg p with
  | some (k, l) => (s.ports.get k).out.map fun o => o.getLsbD (l - 1)
  | none => none

/-- The data bus is host-owned: every data pin is driven (R36). -/
def HostOwned (s : State) : Prop := ∀ p ∈ s.cfg.roleMap.dataBits, triBit s p = some false

/-- The data bus is target-owned: every data pin is tri-stated (R36). -/
def TargetOwned (s : State) : Prop := ∀ p ∈ s.cfg.roleMap.dataBits, triBit s p = some true

/-- Replay the memory calls of a trace on a memory (R80). -/
def replayMem (m : Memory) : List Event → Memory
  | [] => m
  | .memWrite a v :: es => replayMem (m.write a v) es
  | .dev _ _ _ :: es => replayMem m es
  | .memRead _ _ :: es => replayMem m es
  | .phase _ _ _ _ :: es => replayMem m es
  | .record _ _ _ :: es => replayMem m es

/-- Every `MemRead` of a trace returns the byte of the memory the earlier writes left (R80). -/
def readsAgree (m : Memory) : List Event → Bool
  | [] => true
  | .memWrite a v :: es => readsAgree (m.write a v) es
  | .memRead a v :: es => m.read a == v && readsAgree m es
  | .dev _ _ _ :: es => readsAgree m es
  | .phase _ _ _ _ :: es => readsAgree m es
  | .record _ _ _ :: es => readsAgree m es

/-- The number of `Phase` events of a trace. -/
def phaseCount : List Event → Nat
  | [] => 0
  | .phase _ _ _ _ :: es => phaseCount es + 1
  | .dev _ _ _ :: es => phaseCount es
  | .memRead _ _ :: es => phaseCount es
  | .memWrite _ _ :: es => phaseCount es
  | .record _ _ _ :: es => phaseCount es

/-- The number of `Record` events of a trace. -/
def recordCount : List Event → Nat
  | [] => 0
  | .record _ _ _ :: es => recordCount es + 1
  | .dev _ _ _ :: es => recordCount es
  | .memRead _ _ :: es => recordCount es
  | .memWrite _ _ :: es => recordCount es
  | .phase _ _ _ _ :: es => recordCount es

/-- The phase changes R201 allows. -/
def phaseChange : Phase → Phase → Bool
  | .idle, .floating => true
  | .floating, .sampled => true
  | .sampled, .readDrive => true
  | .sampled, .writeCapture => true
  | .readDrive, .settled => true
  | .writeCapture, .settled => true
  | .idle, .idle => false
  | _, .idle => true
  | _, _ => false

/-- Where the phase events of a trace have led: the phase, and the owner of the transaction under way (`free` in
`Idle`); none once an event was out of order. An event is in order when it starts from that phase, is a change
R201 allows, and, inside a transaction, has the transaction's owner: no transaction's phases interleave with
another's (R81, R298). -/
def followPhases (at_ : Option (Phase × Owner)) : List Event → Option (Phase × Owner)
  | [] => at_
  | .phase _ src dst owner :: es =>
    followPhases
      (match at_ with
       | some (p, o) =>
         if p = src ∧ phaseChange src dst = true ∧ owner ≠ .free ∧ (src = .idle ∨ o = owner) then
           some (dst, if dst = .idle then .free else owner)
         else none
       | none => none)
      es
  | .dev _ _ _ :: es => followPhases at_ es
  | .memRead _ _ :: es => followPhases at_ es
  | .memWrite _ _ :: es => followPhases at_ es
  | .record _ _ _ :: es => followPhases at_ es

/-- The `PHASE` the worker's next action finds (R201). -/
def TxnStage.phase (st : TxnStage) (dir : Direction) : Phase :=
  match st with
  | .precheck => .idle
  | .floatBus => .floating
  | .enterSampled => .floating
  | .sample => .sampled
  | .branch => .sampled
  | .readEnable => .readDrive
  | .readFetch => .readDrive
  | .readClockHigh => .readDrive
  | .readClockLow => .readDrive
  | .writeClockHigh => .writeCapture
  | .writeCapture => .writeCapture
  | .writeStore => .writeCapture
  | .writeClockLow => .writeCapture
  | .enterSettled =>
    match dir with
    | .read => .readDrive
    | .write => .writeCapture
  | .settle => .settled
  | .enterIdle => .settled

/-- The worker's actions of a read only, of a write only, or of either. -/
def TxnStage.fitsDirection (st : TxnStage) (dir : Direction) : Bool :=
  match st with
  | .readEnable => decide (dir = .read)
  | .readFetch => decide (dir = .read)
  | .readClockHigh => decide (dir = .read)
  | .readClockLow => decide (dir = .read)
  | .writeClockHigh => decide (dir = .write)
  | .writeCapture => decide (dir = .write)
  | .writeStore => decide (dir = .write)
  | .writeClockLow => decide (dir = .write)
  | .precheck => true
  | .floatBus => true
  | .enterSampled => true
  | .sample => true
  | .branch => true
  | .enterSettled => true
  | .settle => true
  | .enterIdle => true

/-- The slots an action of a transaction issues its primitives on, in order (R74, R203 to R207). -/
def TxnStage.slots (st : TxnStage) (c : Config) : List Nat :=
  match st with
  | .floatBus => c.boundSlots
  | .sample => c.boundSlots
  | .readEnable => c.boundSlots
  | .readClockHigh => clockLastSlots c
  | .readClockLow => clockLastSlots c
  | .writeClockHigh => clockLastSlots c
  | .writeCapture => c.boundSlots
  | .writeClockLow => clockLastSlots c
  | .precheck => []
  | .enterSampled => []
  | .branch => []
  | .readFetch => []
  | .writeStore => []
  | .enterSettled => []
  | .settle => []
  | .enterIdle => []

/-- The code of the primitive an action of a transaction issues, as R70 numbers them: `set_output` 1,
`set_tristate` 2, `read_input` 3; an action that issues none has the code for none (R203 to R207). -/
def TxnStage.primCode (st : TxnStage) : Byte :=
  match st with
  | .floatBus => 2#8
  | .sample => 3#8
  | .readEnable => 2#8
  | .readClockHigh => 1#8
  | .readClockLow => 1#8
  | .writeClockHigh => 1#8
  | .writeCapture => 3#8
  | .writeClockLow => 1#8
  | .precheck => noneByte
  | .enterSampled => noneByte
  | .branch => noneByte
  | .readFetch => noneByte
  | .writeStore => noneByte
  | .enterSettled => noneByte
  | .settle => noneByte
  | .enterIdle => noneByte

/-- The worker is inside its hold of the gate. -/
def WorkerStage.holdsGate : WorkerStage → Bool
  | .boundary => false
  | .acquire => false
  | .txn _ => true
  | .release => true
  | .report => false
  | .stopping => false

/-- The `PHASE` that goes with the worker's place. -/
def WorkerStage.phase (w : WorkerStage) (dir : Direction) : Phase :=
  match w with
  | .txn st => st.phase dir
  | .boundary => .idle
  | .acquire => .idle
  | .release => .idle
  | .report => .idle
  | .stopping => .idle

/-- The worker's place fits the latched direction. -/
def WorkerStage.fitsDirection (w : WorkerStage) (dir : Direction) : Bool :=
  match w with
  | .txn st => st.fitsDirection dir
  | .boundary => true
  | .acquire => true
  | .release => true
  | .report => true
  | .stopping => true

/-- Between steps the gate is the worker's exactly while the worker is in its hold, and free otherwise; `PHASE`
is the one of the worker's place; a worker that does not run is at its loop's top with no cancel pending; and in
`FAILED` mode none runs (R26, R34, R250, R253, R300). -/
def arbitrated (s : State) : Bool :=
  decide (s.gateOwner = if s.frStage.holdsGate then .freerun else .free) &&
  decide (s.phase = s.frStage.phase s.curDir) &&
  s.frStage.fitsDirection s.curDir &&
  (s.frRunning || (decide (s.frStage = .boundary) && !s.frCancel)) &&
  (decide (s.mode = .ready) || !s.frRunning)

/-- A device no command can reach has never been written (R39, R164). -/
def unboundUntouched (s : State) : Bool :=
  [0, 1, 2, 3].all fun k => s.cfg.isBound k || decide (s.ports.get k = Port.unknown)

/-- The RoleMap check registers hold what R323 computes for the configuration. -/
def roleCheckLatched (s : State) : Bool :=
  match checkRoleMap s.cfg with
  | none => decide (s.rmStatus = .ok ∧ s.rmErrPin = 0#16 ∧ s.rmErrSlot = noneByte)
  | some r => decide (s.rmStatus = r.status ∧ s.rmErrPin = r.pin ∧ s.rmErrSlot = r.slot)

/-- A pin table that passed construction (R21, R145): every entry in range, no virtual pin and no (slot, local
pin) twice. -/
def registryWf (c : Config) : Bool :=
  c.registry.all (entryInRange c) &&
  decide (c.registry.Pairwise fun d e => d.vpin ≠ e.vpin ∧ ¬ (d.slot = e.slot ∧ d.localPin = e.localPin))

/-- What reset leaves and the mode records: in `READY` the registry is well-formed and the RoleMap check registers
are the configuration's; in `FAILED` the status is a reset error's (R26, R300, R320). -/
def modeRecorded (s : State) : Bool :=
  match s.mode with
  | .ready => registryWf s.cfg && roleCheckLatched s
  | .failed =>
    decide (s.lastStatus = .pinOutOfRange ∨ s.lastStatus = .duplicatePin ∨ s.lastStatus = .transportError)

/-- The ports after every bound slot's device was changed by `f`; unbound slots have no device (R39). -/
def portsWith (c : Config) (f : Nat → Port → Port) (ports : PerSlot Port) : PerSlot Port :=
  PerSlot.tabulate fun k => if c.isBound k then f k (ports.get k) else ports.get k

/-- The command that performs a masked write (R165, R166, R168, R169). -/
def MaskOp.instr (op : MaskOp) (m : VMask) : Instr :=
  match op with
  | .output => .drive m
  | .tristate => .triState m
  | .supplyPins => .assignSupplyPins m
  | .groundPins => .assignGround m

/-- Replay the device primitives of a trace on the ports: a completed one has its effect, one that raised leaves
its field unknown (R71, R73). -/
def replayPorts (ports : PerSlot Port) : List Event → PerSlot Port
  | [] => ports
  | .dev k p .transportError :: es => replayPorts (ports.set k (p.spoil (ports.get k))) es
  | .dev k p .ok :: es => replayPorts (ports.set k (p.apply (ports.get k))) es
  | .dev k p (.levels _) :: es => replayPorts (ports.set k (p.apply (ports.get k))) es
  | .memRead _ _ :: es => replayPorts ports es
  | .memWrite _ _ :: es => replayPorts ports es
  | .phase _ _ _ _ :: es => replayPorts ports es
  | .record _ _ _ :: es => replayPorts ports es

/-- The phase events of a trace are numbered `n+1, n+2, ...` modulo `2^32` (R30, R201). -/
def numberedFrom (n : Nat) : List Event → Bool
  | [] => true
  | .phase q _ _ _ :: es => decide (q = BitVec.ofNat 32 (n + 1)) && numberedFrom (n + 1) es
  | .dev _ _ _ :: es => numberedFrom n es
  | .memRead _ _ :: es => numberedFrom n es
  | .memWrite _ _ :: es => numberedFrom n es
  | .record _ _ _ :: es => numberedFrom n es

/-- The last `Record` event of a trace, `last` being the one before the events listed. -/
def lastRecordOf (last : Option (Word × Byte × Direction)) : List Event → Option (Word × Byte × Direction)
  | [] => last
  | .record a v d :: es => lastRecordOf (some (a, v, d)) es
  | .dev _ _ _ :: es => lastRecordOf last es
  | .memRead _ _ :: es => lastRecordOf last es
  | .memWrite _ _ :: es => lastRecordOf last es
  | .phase _ _ _ _ :: es => lastRecordOf last es

/-- The `MemRead` and `MemWrite` events of a trace, in order. -/
def memCalls : List Event → List Event
  | [] => []
  | .memRead a v :: es => .memRead a v :: memCalls es
  | .memWrite a v :: es => .memWrite a v :: memCalls es
  | .dev _ _ _ :: es => memCalls es
  | .phase _ _ _ _ :: es => memCalls es
  | .record _ _ _ :: es => memCalls es

/-- The number a register's field holds, as R38 words it. -/
def regField (r : Reg) (s : State) : Nat :=
  match r with
  | .mode => if s.mode = .failed then 1 else 0
  | .phase =>
    if s.phase = .floating then 1 else if s.phase = .sampled then 2 else if s.phase = .readDrive then 3
    else if s.phase = .writeCapture then 4 else if s.phase = .settled then 5 else 0
  | .flags =>
    s.busUnknown.toNat + 2 * s.frRunning.toNat + 4 * s.frCancel.toNat + 8 * s.lastValid.toNat +
      16 * (if s.gateOwner = .host then 1 else if s.gateOwner = .freerun then 2 else 0)
  | .lastStatus => s.lastStatus.code.toNat
  | .frStatus => s.frStatus.code.toNat
  | .errPin => s.errPin.toNat
  | .errSlot => s.errSlot.toNat
  | .errPrim => s.errPrim.toNat
  | .errSrc => s.errSrc.toNat
  | .lastAddr => s.lastAddr.toNat
  | .lastValue => s.lastValue.toNat
  | .lastDir => if s.lastDir = .read then 1 else 0
  | .txnCount => s.txnCount.toNat
  | .seq => s.seq.toNat
  | .rmStatus => s.rmStatus.code.toNat
  | .rmErrPin => s.rmErrPin.toNat
  | .rmErrSlot => s.rmErrSlot.toNat
  | .cfgNslots => s.cfg.nslots
  | .cfgN => 40 * s.cfg.nslots
  | .cfgBound => (s.cfg.boundSlots.map fun k => 2 ^ k).sum
  | .cfgAw => s.cfg.addrWidth
  | .cfgRwReadLevel => s.cfg.rwReadLevel.toNat
  | .cfgTTri => s.cfg.tTri.toNat
  | .cfgTClk => s.cfg.tClk.toNat
  | .curAddr => s.curAddr.toNat
  | .curValue => s.curValue.toNat
  | .curDir => if s.curDir = .read then 1 else 0

/-- The four bytes of a 32-bit number, byte 0 first (R69, R102). -/
def fourBytes (n : Nat) : List Byte :=
  [BitVec.ofNat 8 n, BitVec.ofNat 8 (n / 256), BitVec.ofNat 8 (n / 65536), BitVec.ofNat 8 (n / 16777216)]

/-- Mask bit `k` of a laid-out mask: bit `k mod 8` of byte `k / 8` (R103, R104). -/
def maskBit (bytes : List Byte) (k : Nat) : Bool := (bytes.getD (k / 8) 0#8).getLsbD (k % 8)

/-- What the devices return to one read when the environment answers `f k` for slot `k` (R72). -/
def returned (ports : PerSlot Port) (f : Nat → InputSample) : PerSlot LMask :=
  PerSlot.tabulate fun k => (ports.get k).input (f k)

/-- The state after a host command that completed and changed nothing but `LAST_STATUS`: the response taken off
the port's queue (R31, R101). -/
def answeredWith (result : List Byte) (s : State) : State :=
  { s with lastStatus := .ok, cmds := s.cmds.tail, responses := s.responses ++ [0x00#8 :: result] }

/-- The state after a host command that raised: the error registers, `LAST_STATUS`, the one-byte response (R101,
R285). -/
def failedWith (st : Status) (pin : BitVec 16) (slot prim : Byte) (s : State) : State :=
  { s with errPin := pin, errSlot := slot, errPrim := prim, errSrc := 0x00#8, lastStatus := st,
           cmds := s.cmds.tail, responses := s.responses ++ [[st.code]] }

/-- One action of the worker after another. -/
def workerRun : Nat → State → State
  | 0, s => s
  | n + 1, s => workerRun n (workerStep s)

/-- A run: each state is a step after the one before. -/
def IsRun (run : Nat → State) : Prop := ∀ n, step (run n) = .next (run (n + 1))

/-- The agent waits for the gate: it has work that needs the gate and does not hold it. -/
def wantsGate (a : Agent) (s : State) : Bool :=
  match a with
  | .host =>
    match fetch s with
    | some (.ok i) => i.opcode.needsGate && decide (s.mode = .ready)
    | some (.error _) => false
    | none => false
  | .freerun => s.frRunning && decide (s.frStage = .acquire)

/-- The fairness assumption of R258: an agent that waits for the gate gets it after finitely many steps. -/
def FairRun (run : Nat → State) : Prop :=
  IsRun run ∧ ∀ a n, wantsGate a (run n) = true → ∃ m, n ≤ m ∧ wantsGate a (run m) = false

end Sys2Proof.Machine
end

