-- ==== Sys2Proof/Certificates/Slice0/Obligations.lean ====
section
/-!
DEFINITION. The statements for the provers. Each docstring names the rule of the spec it formalises, or says that it
rests on a choice of the model and names the log entry.
-/

open Sys2Proof Sys2Proof.Machine

/-! ### Reset and configuration -/

/-- R38, R39, R40, R324: the registers, devices, memory, gate and worker after reset, for every configuration and
every environment. -/
def Obligations.ResetRegisterValues : Prop :=
  ∀ (c : Config) (e : Env),
    let s := State.resetWith c e
    s.cfg = c ∧ s.phase = .idle ∧ s.busUnknown = true ∧ s.frRunning = false ∧ s.frCancel = false ∧
    s.lastValid = false ∧ s.gateOwner = .free ∧ s.frStatus = .ok ∧ s.lastAddr = 0#32 ∧ s.lastValue = 0#8 ∧
    s.lastDir = .write ∧ s.txnCount = 0#32 ∧ s.seq = 0#32 ∧ s.curAddr = 0#32 ∧ s.curValue = 0#8 ∧
    s.curDir = .write ∧ (∀ k, k < 4 → s.ports.get k = Port.unknown) ∧ s.mem = Memory.ofCells c.mem0

/-- R320, R322: when the pin table is well-formed (R21) and no `init()` fails, reset ends `READY` with no error recorded, one
`init()` per bound slot in ascending order in the trace, and the RoleMap check of the configuration latched. -/
def Obligations.ResetEndsReady : Prop :=
  ∀ (c : Config) (e : Env) (rest : List Bool),
    registryWf c = true → e.transport = List.replicate c.boundSlots.length false ++ rest →
    let s := State.resetWith c e
    s.mode = .ready ∧ s.lastStatus = .ok ∧ s.errPin = 0#16 ∧ s.errSlot = 0xFF#8 ∧ s.errPrim = 0xFF#8 ∧
    s.errSrc = 0xFF#8 ∧ s.trace = c.boundSlots.map (fun k => .dev k .init .ok) ∧ roleCheckLatched s = true

/-- R144, R146, R321 (what a negative pin or slot records is the model's choice, notes/assumptions/25.md): the first entry that is out of range, or repeats an earlier entry's pin or (slot, local pin),
ends construction; its error is recorded, range before duplicate, and nothing has been issued. -/
def Obligations.ResetFailsAtFirstBadEntry : Prop :=
  ∀ (c : Config) (env : Env) (good bad : List Entry) (e : Entry),
    c.registry = good ++ e :: bad → registryWf { c with registry := good } = true →
    let s := State.resetWith c env
    let failed := fun (st : Status) => s.mode = .failed ∧ s.lastStatus = st ∧ s.errPin = BitVec.ofInt 16 e.vpin ∧
      s.errSlot = BitVec.ofInt 8 e.slot ∧ s.errPrim = 0xFF#8 ∧ s.errSrc = 0x02#8 ∧ s.trace = [] ∧
      s.rmStatus = .ok ∧ s.rmErrPin = 0#16 ∧ s.rmErrSlot = 0xFF#8
    let inRange := 1 ≤ e.vpin ∧ e.vpin ≤ (40 * c.nslots : Nat) ∧ 0 ≤ e.slot ∧ e.slot < (c.nslots : Nat) ∧
      1 ≤ e.localPin ∧ e.localPin ≤ 40
    (¬ inRange → failed .pinOutOfRange) ∧
    (inRange → (∃ d ∈ good, d.vpin = e.vpin ∨ (d.slot = e.slot ∧ d.localPin = e.localPin)) →
      failed .duplicatePin)

/-- R322: an `init()` that fails ends reset in `FAILED` with the slot recorded; the slots after it are not
initialised. -/
def Obligations.ResetFailsAtInit : Prop :=
  ∀ (c : Config) (e : Env) (before after : List Nat) (k : Nat) (rest : List Bool),
    registryWf c = true → c.boundSlots = before ++ k :: after →
    e.transport = List.replicate before.length false ++ true :: rest →
    let s := State.resetWith c e
    s.mode = .failed ∧ s.lastStatus = .transportError ∧ s.errPin = 0#16 ∧ s.errSlot = BitVec.ofNat 8 k ∧
    s.errPrim = 0#8 ∧ s.errSrc = 0x02#8 ∧
    s.trace = before.map (fun j => .dev j .init .ok) ++ [.dev k .init .transportError]

/-- R323, R23: the RoleMap check passes exactly the RoleMaps that are structurally valid and whose every role pin
maps to a bound slot. -/
def Obligations.RoleMapCheckPasses : Prop :=
  ∀ c : Config, checkRoleMap c = none ↔
    c.roleMap.addressBits.length ≤ 32 ∧ c.roleMap.dataBits.length = 8 ∧ (rolePins c).Nodup ∧
    ∀ p ∈ rolePins c, ∃ k l, res c p = some (k, l) ∧ c.isBound k = true

/-- R323: what reset leaves in the RoleMap check registers when the pin table is well-formed and no `init()` fails:
`OK` if the check passes; a length error first; then the first pin that equals an earlier one; then in canonical order
the first pin that is unmapped or on an unbound slot. The check issues no primitive, and `LAST_STATUS` and the error
registers record no error. What `RM_ERR_PIN` shows of a pin that does not fit it is the model's choice
(notes/assumptions/25.md). -/
def Obligations.RoleMapCheckAtReset : Prop :=
  ∀ (c : Config) (e : Env) (rest : List Bool),
    registryWf c = true → e.transport = List.replicate c.boundSlots.length false ++ rest →
    let s := State.resetWith c e
    let reports := fun (st : Status) (pin : BitVec 16) (slot : Byte) =>
      s.rmStatus = st ∧ s.rmErrPin = pin ∧ s.rmErrSlot = slot
    let usable := fun (q : VPin) => ∃ k l, res c q = some (k, l) ∧ c.isBound k = true
    s.mode = .ready ∧ s.trace = c.boundSlots.map (fun k => .dev k .init .ok) ∧
    s.lastStatus = .ok ∧ s.errPin = 0#16 ∧ s.errSlot = 0xFF#8 ∧ s.errPrim = 0xFF#8 ∧ s.errSrc = 0xFF#8 ∧
    (c.roleMap.addressBits.length > 32 ∨ c.roleMap.dataBits.length ≠ 8 → reports .roleMapInvalid 0#16 0xFF#8) ∧
    (c.roleMap.addressBits.length ≤ 32 → c.roleMap.dataBits.length = 8 →
      ((rolePins c).Nodup → (∀ q ∈ rolePins c, usable q) → reports .ok 0#16 0xFF#8) ∧
      ∀ before p after, rolePins c = before ++ p :: after →
        (before.Nodup → p ∈ before → reports .roleMapInvalid (BitVec.ofInt 16 p) 0xFF#8) ∧
        ((rolePins c).Nodup → (∀ q ∈ before, usable q) →
          (res c p = none → reports .unmappedPin (BitVec.ofInt 16 p) 0xFF#8) ∧
          (∀ k l, res c p = some (k, l) → c.isBound k = false →
            reports .unboundDevice (BitVec.ofInt 16 p) (BitVec.ofNat 8 k))))

/-- R20, R26, R33: no step changes the configuration, the mode or the RoleMap check registers. -/
def Obligations.ConfigurationNeverChanges : Prop :=
  ∀ s t : State, step s = .next t →
    t.cfg = s.cfg ∧ t.mode = s.mode ∧ t.rmStatus = s.rmStatus ∧ t.rmErrPin = s.rmErrPin ∧
    t.rmErrSlot = s.rmErrSlot

/-! ### Encoding -/

/-- R105, R106: decoding the byte string of a well-formed command gives the command back. -/
def Obligations.DecodeOfEncode : Prop :=
  ∀ (nslots : Nat) (i : Instr), i.wellFormed nslots = true → decode nslots (encode nslots i) = .ok i

/-- R105 to R108: a byte string that decodes is the encoding of the command it decodes to, which is well-formed. -/
def Obligations.EncodeOfDecode : Prop :=
  ∀ (nslots : Nat) (bytes : List Byte) (i : Instr), nslots ≤ 4 → decode nslots bytes = .ok i →
    encode nslots i = bytes ∧ i.wellFormed nslots = true

/-- R105, R110, R111: words written out from the spec's encodings decode to the commands they stand for. -/
def Obligations.DecodeSpecWords : Prop :=
  decode 1 [0x01#8, 0x29#8, 0x00#8] = .ok (.resolve 41#16) ∧
  decode 4 [0x02#8, 0x01#8] = .ok (.pinsForSlot 1#8) ∧
  decode 1 [0x10#8, 0x00#8, 0x60#8, 0x00#8, 0x00#8, 0x00#8] = .ok (.drive 0x6000#160) ∧
  decode 1 [0x11#8, 0x01#8, 0x40#8, 0x00#8, 0x00#8, 0x00#8] = .ok (.triState 0x4001#160) ∧
  decode 4 [0x15#8, 0xFF#8, 0xFF#8, 0xFF#8, 0xFF#8] = .ok (.setSupplyVoltage 0xFFFFFFFF#32) ∧
  decode 4 [0x16#8, 0x01#8] = .ok (.enableSupply true) ∧
  decode 4 [0x20#8] = .ok .busCycle ∧ decode 4 [0x21#8] = .ok .freeRunStart ∧
  decode 4 [0x30#8, 0x02#8] = .ok (.readReg .flags)

/-- R107, R108: a byte string whose opcode is not in the map, whose length is not the opcode's, or whose operand R108
forbids, decodes to nothing. -/
def Obligations.UndecodableRefused : Prop :=
  ∀ nslots : Nat,
    (∀ (b : Byte) (bs : List Byte), (∀ op : Opcode, op.code ≠ b) → decode nslots (b :: bs) = .error (.unknownOpcode b)) ∧
    (∀ (op : Opcode) (bs : List Byte), bs.length + 1 ≠ op.length nslots →
      decode nslots (op.code :: bs) = .error (.wrongLength op)) ∧
    (∀ b : Byte, b ≠ 0#8 → b ≠ 1#8 → decode nslots [0x16#8, b] = .error (.badOperand .enableSupply)) ∧
    (∀ b : Byte, nslots ≤ b.toNat → decode nslots [0x02#8, b] = .error (.badOperand .pinsForSlot)) ∧
    (∀ b : Byte, 0x1A < b.toNat → decode nslots [0x30#8, b] = .error (.badOperand .readReg))

/-! ### Translation -/

/-- R160: fan-out succeeds exactly when every set pin maps to a bound slot, and then sets exactly the local bits of the
set pins; otherwise it reports the lowest failing pin, `UnmappedPin` if it has no entry and `UnboundDevice` with its slot
if that is unbound. -/
def Obligations.FanOutFunction : Prop :=
  ∀ (c : Config) (m : VMask),
    (∀ L : PerSlot LMask, fanOut c m = .ok L ↔
      (∀ k, k < 40 * c.nslots → m.getLsbD k = true →
        ∃ s l, res c (Int.ofNat (k + 1)) = some (s, l) ∧ c.isBound s = true) ∧
      ∀ s j, s < 4 → j < 40 →
        ((L.get s).getLsbD j = true ↔
          ∃ k, k < 40 * c.nslots ∧ m.getLsbD k = true ∧
            ∃ l, res c (Int.ofNat (k + 1)) = some (s, l) ∧ j = l - 1)) ∧
    ∀ e : Raise, fanOut c m = .error e ↔
      ∃ k, k < 40 * c.nslots ∧ m.getLsbD k = true ∧
        (∀ j, j < k → m.getLsbD j = true → ∃ s l, res c (Int.ofNat (j + 1)) = some (s, l) ∧ c.isBound s = true) ∧
        ((res c (Int.ofNat (k + 1)) = none ∧
            e = { status := .unmappedPin, pin := BitVec.ofNat 16 (k + 1), slot := 0xFF#8, prim := 0xFF#8 }) ∨
         (∃ s l, res c (Int.ofNat (k + 1)) = some (s, l) ∧ c.isBound s = false ∧
            e = { status := .unboundDevice, pin := BitVec.ofNat 16 (k + 1), slot := BitVec.ofNat 8 s,
                  prim := 0xFF#8 }))

/-- R173: for a mask of mapped pins of bound slots, fan-out succeeds and fan-in gives the mask back. -/
def Obligations.FanInOfFanOut : Prop :=
  ∀ (c : Config) (m : VMask), c.nslots ≤ 4 → registryWf c = true →
    (∀ k, m.getLsbD k = true → k < 40 * c.nslots ∧
      ∃ s l, res c (Int.ofNat (k + 1)) = some (s, l) ∧ c.isBound s = true) →
    ∃ L, fanOut c m = .ok L ∧ aggregate c L = m

/-- R24: the bits of the sequencer's masks. -/
def Obligations.SequencerMaskBits : Prop :=
  ∀ (c : Config) (k : Nat), c.nslots ≤ 4 → k < 40 * c.nslots →
    let p : VPin := Int.ofNat (k + 1)
    let bound := ∃ s l, res c p = some (s, l) ∧ c.isBound s = true
    let hostDriven := p = c.roleMap.clockPin ∨ ∃ f ∈ c.roleMap.alwaysDriven, f.pin = p
    ((allBoundMask c).getLsbD k = true ↔ bound) ∧
    ((floatMask c).getLsbD k = true ↔ bound ∧ ¬ hostDriven) ∧
    ((readTriMask c).getLsbD k = true ↔ bound ∧ ¬ hostDriven ∧ p ∉ c.roleMap.dataBits) ∧
    (∀ (clk : Bool) (v : Byte), (driveMask c clk (some v)).getLsbD k = true ↔
      (clk = true ∧ p = c.roleMap.clockPin) ∨ (∃ f ∈ c.roleMap.alwaysDriven, f.pin = p ∧ f.level = true) ∨
      ∃ i, i < 8 ∧ c.roleMap.dataBits[i]? = some p ∧ v.getLsbD i = true) ∧
    (∀ clk : Bool, (driveMask c clk none).getLsbD k = true ↔
      (clk = true ∧ p = c.roleMap.clockPin) ∨ ∃ f ∈ c.roleMap.alwaysDriven, f.pin = p ∧ f.level = true)

/-- R202: once the RoleMap check has passed, no mask of the sequencer can fail to translate. -/
def Obligations.SequencerMasksTranslate : Prop :=
  ∀ c : Config, checkRoleMap c = none →
    (∃ L, fanOut c (floatMask c) = .ok L) ∧ (∃ L, fanOut c (readTriMask c) = .ok L) ∧
    ∀ (clk : Bool) (v : Option Byte), ∃ L, fanOut c (driveMask c clk v) = .ok L

/-- R74: the sequencer's `set_output` order visits each bound slot once, the slot of `clock_pin` last and the others
in ascending order. -/
def Obligations.ClockSlotIsLast : Prop :=
  ∀ (c : Config) (k l : Nat), res c c.roleMap.clockPin = some (k, l) → c.isBound k = true →
    ∃ others, clockLastSlots c = others ++ [k] ∧ others.Pairwise (· < ·) ∧ k ∉ others ∧
      ∀ s, s ∈ others ↔ c.isBound s = true ∧ s ≠ k

/-! ### Registry commands -/

/-- R141: `RESOLVE` answers the slot and local pin of a mapped pin, whatever `BOUND` is, and raises `UnmappedPin` for
every other operand; nothing else changes, the phase of a worker's transaction neither, which is the model's reading of
R285 (notes/assumptions/9.md). -/
def Obligations.ResolveAnswers : Prop :=
  ∀ (s : State) (vpin : BitVec 16), s.mode = .ready → s.gateOwner ≠ .host →
    (∀ k l, res s.cfg (Int.ofNat vpin.toNat) = some (k, l) →
      exec (.resolve vpin) s = .next (answeredWith [BitVec.ofNat 8 k, BitVec.ofNat 8 l] s)) ∧
    (res s.cfg (Int.ofNat vpin.toNat) = none →
      exec (.resolve vpin) s = .next (failedWith .unmappedPin vpin 0xFF#8 0xFF#8 s))

/-- R143, R142: `PINS_FOR_SLOT` answers the mask of the slot's pins, bound or not, and is illegal for a slot outside
the enumeration (in `Idle` here; `IllegalCommandAnswered` has the other phases); nothing else changes. -/
def Obligations.PinsForSlotAnswers : Prop :=
  ∀ (s : State) (slot : Byte), s.mode = .ready → s.gateOwner ≠ .host → s.cfg.nslots ≤ 4 →
    (slot.toNat < s.cfg.nslots →
      ∃ bytes : List Byte, exec (.pinsForSlot slot) s = .next (answeredWith bytes s) ∧
        bytes.length = 5 * s.cfg.nslots ∧
        ∀ k, k < 40 * s.cfg.nslots →
          (maskBit bytes k = true ↔ ∃ l, res s.cfg (Int.ofNat (k + 1)) = some (slot.toNat, l))) ∧
    (s.cfg.nslots ≤ slot.toNat → s.phase = .idle →
      exec (.pinsForSlot slot) s = .next (failedWith .illegalCommand 0#16 0xFF#8 0xFF#8 s))

/-! ### VirtualBus queries -/

/-- R161: `FAN_OUT` answers one local mask per slot, 0 for an unbound one, or the translation error; nothing else
changes, the phase of a worker's transaction neither, which is the model's reading of R285 (notes/assumptions/9.md). -/
def Obligations.FanOutAnswers : Prop :=
  ∀ (s : State) (m : VMask), s.mode = .ready → s.gateOwner ≠ .host → s.cfg.nslots ≤ 4 →
    (∀ L, fanOut s.cfg m = .ok L →
      ∃ bytes : List Byte, exec (.fanOut m) s = .next (answeredWith bytes s) ∧
        bytes.length = 5 * s.cfg.nslots ∧
        ∀ k j, k < s.cfg.nslots → j < 40 →
          (maskBit (bytes.drop (5 * k)) j = (L.get k).getLsbD j) ∧
          (s.cfg.isBound k = false → maskBit (bytes.drop (5 * k)) j = false)) ∧
    (∀ e, fanOut s.cfg m = .error e → exec (.fanOut m) s = .next (failedWith e.status e.pin e.slot 0xFF#8 s))

/-- R162, R163: `AGGREGATE` answers the mask of the pins whose bound slot's local bit is set; it never fails and
changes nothing else. -/
def Obligations.AggregateAnswers : Prop :=
  ∀ (s : State) (I : PerSlot LMask), s.mode = .ready → s.cfg.nslots ≤ 4 →
    ∃ bytes : List Byte, exec (.aggregate I) s = .next (answeredWith bytes s) ∧
      bytes.length = 5 * s.cfg.nslots ∧
      ∀ k, k < 40 * s.cfg.nslots →
        (maskBit bytes k = true ↔
          ∃ t l, res s.cfg (Int.ofNat (k + 1)) = some (t, l) ∧ s.cfg.isBound t = true ∧
            (I.get t).getLsbD (l - 1) = true)

/-! ### Masked writes, READ, supply -/

/-- R165: `DRIVE` completes: every bound device's output latch is its local mask, one `set_output` per bound slot in
ascending order, and nothing else changes. -/
def Obligations.DriveCompletes : Prop :=
  ∀ (s : State) (m : VMask) (L : PerSlot LMask) (rest : List Bool),
    s.mode = .ready → s.gateOwner = .free → fanOut s.cfg m = .ok L →
    s.env.transport = List.replicate s.cfg.boundSlots.length false ++ rest →
    exec (.drive m) s = .next (answeredWith []
      { s with ports := portsWith s.cfg (fun k d => { d with out := some (L.get k) }) s.ports,
               trace := s.trace ++ s.cfg.boundSlots.map (fun k => .dev k (.setOutput (L.get k)) .ok),
               env := { s.env with transport := rest, draws := s.env.draws + s.cfg.boundSlots.length } })

/-- R166, R32: `TRI_STATE` completes: every bound device's tri-state setting is its local mask, `BUS_UNKNOWN` is
cleared, and nothing else changes. -/
def Obligations.TriStateCompletes : Prop :=
  ∀ (s : State) (m : VMask) (L : PerSlot LMask) (rest : List Bool),
    s.mode = .ready → s.gateOwner = .free → fanOut s.cfg m = .ok L →
    s.env.transport = List.replicate s.cfg.boundSlots.length false ++ rest →
    exec (.triState m) s = .next (answeredWith []
      { s with ports := portsWith s.cfg (fun k d => { d with tri := some (L.get k) }) s.ports,
               busUnknown := false,
               trace := s.trace ++ s.cfg.boundSlots.map (fun k => .dev k (.setTristate (L.get k)) .ok),
               env := { s.env with transport := rest, draws := s.env.draws + s.cfg.boundSlots.length } })

/-- R168, R169: `ASSIGN_GROUND` and `ASSIGN_SUPPLY_PINS` complete: every bound device's ground setting, supply setting,
is its local mask; nothing else changes. -/
def Obligations.AssignmentsComplete : Prop :=
  ∀ (s : State) (m : VMask) (L : PerSlot LMask) (rest : List Bool),
    s.mode = .ready → s.gateOwner = .free → fanOut s.cfg m = .ok L →
    s.env.transport = List.replicate s.cfg.boundSlots.length false ++ rest →
    let used := { s.env with transport := rest, draws := s.env.draws + s.cfg.boundSlots.length }
    exec (.assignGround m) s = .next (answeredWith []
      { s with ports := portsWith s.cfg (fun k d => { d with gnd := .pins (L.get k) }) s.ports,
               trace := s.trace ++ s.cfg.boundSlots.map (fun k => .dev k (.assignGroundPins (L.get k)) .ok),
               env := used }) ∧
    exec (.assignSupplyPins m) s = .next (answeredWith []
      { s with ports := portsWith s.cfg (fun k d => { d with sup := .pins (L.get k) }) s.ports,
               trace := s.trace ++ s.cfg.boundSlots.map (fun k => .dev k (.assignSupplyPins (L.get k)) .ok),
               env := used })

/-- R164: a masked write whose mask does not translate raises that error with no primitive issued; only the error
registers, `LAST_STATUS` and the response change. -/
def Obligations.MaskedWriteTranslationError : Prop :=
  ∀ (op : MaskOp) (s : State) (m : VMask) (e : Raise),
    s.mode = .ready → s.gateOwner = .free → s.phase = .idle → fanOut s.cfg m = .error e →
    exec (op.instr m) s = .next (failedWith e.status e.pin e.slot 0xFF#8 s)

/-- R164, R73, R286: a masked write whose primitive fails at slot `k` leaves the slots before `k` written, `k`'s field
unknown, the slots after `k` as they were with nothing issued, sets `BUS_UNKNOWN`, and records slot and primitive. -/
def Obligations.MaskedWriteStopsAtFailure : Prop :=
  ∀ (op : MaskOp) (s : State) (m : VMask) (L : PerSlot LMask) (before after : List Nat) (k : Nat)
    (rest : List Bool),
    s.mode = .ready → s.gateOwner = .free → s.phase = .idle → fanOut s.cfg m = .ok L →
    s.cfg.boundSlots = before ++ k :: after →
    s.env.transport = List.replicate before.length false ++ true :: rest →
    exec (op.instr m) s = .next (failedWith .transportError 0#16 (BitVec.ofNat 8 k)
      (match op with
       | .output => 1#8
       | .tristate => 2#8
       | .supplyPins => 6#8
       | .groundPins => 7#8)
      { s with ports := PerSlot.tabulate fun j =>
                 if j ∈ before then
                   (match op with
                    | .output => { s.ports.get j with out := some (L.get j) }
                    | .tristate => { s.ports.get j with tri := some (L.get j) }
                    | .supplyPins => { s.ports.get j with sup := .pins (L.get j) }
                    | .groundPins => { s.ports.get j with gnd := .pins (L.get j) })
                 else if j = k then
                   (match op with
                    | .output => { s.ports.get j with out := none }
                    | .tristate => { s.ports.get j with tri := none }
                    | .supplyPins => { s.ports.get j with sup := .lost }
                    | .groundPins => { s.ports.get j with gnd := .lost })
                 else s.ports.get j,
               busUnknown := true,
               trace := s.trace ++ before.map (fun j => .dev j (op.prim (L.get j)) .ok) ++
                 [.dev k (op.prim (L.get k)) .transportError],
               env := { s.env with transport := rest, draws := s.env.draws + (before.length + 1) } })

/-- R167: `READ` completes: one `read_input` per bound slot in ascending order; the answer has the bit the device of
each pin's bound slot returned, 0 for every other pin; no register but `LAST_STATUS`, no port and no memory changes. -/
def Obligations.ReadCompletes : Prop :=
  ∀ (s : State) (f : Nat → InputSample) (rest : List Bool) (restI : List InputSample),
    s.mode = .ready → s.gateOwner = .free → s.cfg.nslots ≤ 4 →
    s.env.transport = List.replicate s.cfg.boundSlots.length false ++ rest →
    s.env.inputs = s.cfg.boundSlots.map f ++ restI →
    ∃ bytes : List Byte,
      exec .read s = .next (answeredWith bytes
        { s with trace := s.trace ++
                   s.cfg.boundSlots.map (fun k => .dev k .readInput (.levels ((s.ports.get k).input (f k)))),
                 env := { s.env with transport := rest, inputs := restI,
                                     draws := s.env.draws + 2 * s.cfg.boundSlots.length } }) ∧
      bytes.length = 5 * s.cfg.nslots ∧
      ∀ k, k < 40 * s.cfg.nslots →
        (maskBit bytes k = true ↔
          ∃ t l, res s.cfg (Int.ofNat (k + 1)) = some (t, l) ∧ s.cfg.isBound t = true ∧
            ((s.ports.get t).input (f t)).getLsbD (l - 1) = true)

/-- R167: a `READ` whose `read_input` fails at slot `k` raises `TransportError` for it, sets `BUS_UNKNOWN`, and issues
nothing to the slots after it; no port changes. -/
def Obligations.ReadStopsAtFailure : Prop :=
  ∀ (s : State) (f : Nat → InputSample) (before after : List Nat) (k : Nat) (rest : List Bool)
    (restI : List InputSample),
    s.mode = .ready → s.gateOwner = .free → s.phase = .idle → s.cfg.boundSlots = before ++ k :: after →
    s.env.transport = List.replicate before.length false ++ true :: rest →
    s.env.inputs = before.map f ++ restI →
    exec .read s = .next (failedWith .transportError 0#16 (BitVec.ofNat 8 k) 3#8
      { s with busUnknown := true,
               trace := s.trace ++
                 before.map (fun j => .dev j .readInput (.levels ((s.ports.get j).input (f j)))) ++
                 [.dev k .readInput .transportError],
               env := { s.env with transport := rest, inputs := restI,
                                   draws := s.env.draws + (2 * before.length + 1) } })

/-- R72: a `read_input` bit of a tri-stated pin that no assignment has reached is the level the target presents; of a
driven pin, or one assigned to ground or supply, it is the environment's free draw. That a pin of a device never sent an
assignment counts as not assigned (as R213 and R214 have it), and that the bit is a draw after a failed assignment or
while the tri-state setting is unknown, is the model's reading (notes/assumptions/3.md). -/
def Obligations.InputBitSources : Prop :=
  ∀ (d : Port) (i : InputSample) (j : Nat), j < 40 →
    let unassigned := fun (a : PinAssignment) => a = .never ∨ ∃ m, a = .pins m ∧ m.getLsbD j = false
    let assigned := fun (a : PinAssignment) => a = .lost ∨ ∃ m, a = .pins m ∧ m.getLsbD j = true
    (∀ t, d.tri = some t → t.getLsbD j = true → unassigned d.gnd → unassigned d.sup →
      (d.input i).getLsbD j = i.levels.getLsbD j) ∧
    (∀ t, d.tri = some t → t.getLsbD j = false → (d.input i).getLsbD j = i.draw.getLsbD j) ∧
    (d.tri = none ∨ assigned d.gnd ∨ assigned d.sup → (d.input i).getLsbD j = i.draw.getLsbD j)

/-- R170, R171: `SET_SUPPLY_VOLTAGE` and `ENABLE_SUPPLY` complete: every bound device's level is the operand read as
two's complement, its supply enable the operand; nothing else changes. -/
def Obligations.SupplyCommandsComplete : Prop :=
  ∀ (s : State) (level : Word) (on : Bool) (rest : List Bool),
    s.mode = .ready → s.gateOwner = .free →
    s.env.transport = List.replicate s.cfg.boundSlots.length false ++ rest →
    let used := { s.env with transport := rest, draws := s.env.draws + s.cfg.boundSlots.length }
    exec (.setSupplyVoltage level) s = .next (answeredWith []
      { s with ports := portsWith s.cfg (fun _ d => { d with vlevel := some level.toInt }) s.ports,
               trace := s.trace ++ s.cfg.boundSlots.map (fun k => .dev k (.setSupplyVoltage level.toInt) .ok),
               env := used }) ∧
    exec (.enableSupply on) s = .next (answeredWith []
      { s with ports := portsWith s.cfg (fun _ d => { d with supEn := some on }) s.ports,
               trace := s.trace ++ s.cfg.boundSlots.map (fun k => .dev k (.enableSupply on) .ok),
               env := used })

/-- R170, R171: a supply command whose primitive fails at slot `k`: the slots before it set, its field unknown, the
slots after it untouched, `BUS_UNKNOWN` set, primitive code 4 or 5 recorded. -/
def Obligations.SupplyStopsAtFailure : Prop :=
  ∀ (s : State) (level : Word) (on : Bool) (before after : List Nat) (k : Nat) (rest : List Bool),
    s.mode = .ready → s.gateOwner = .free → s.phase = .idle → s.cfg.boundSlots = before ++ k :: after →
    s.env.transport = List.replicate before.length false ++ true :: rest →
    let failedAt := fun (p : Prim) (set spoil : Port → Port) =>
      { s with ports := PerSlot.tabulate fun j =>
                 if j ∈ before then set (s.ports.get j) else if j = k then spoil (s.ports.get j)
                 else s.ports.get j,
               busUnknown := true,
               trace := s.trace ++ before.map (fun j => .dev j p .ok) ++ [.dev k p .transportError],
               env := { s.env with transport := rest, draws := s.env.draws + (before.length + 1) } }
    exec (.setSupplyVoltage level) s = .next (failedWith .transportError 0#16 (BitVec.ofNat 8 k) 4#8
      (failedAt (.setSupplyVoltage level.toInt) (fun d => { d with vlevel := some level.toInt })
        (fun d => { d with vlevel := none }))) ∧
    exec (.enableSupply on) s = .next (failedWith .transportError 0#16 (BitVec.ofNat 8 k) 5#8
      (failedAt (.enableSupply on) (fun d => { d with supEn := some on }) (fun d => { d with supEn := none })))

/-- R172: two consecutive commands of one masked write, no primitive failing, issue the same primitives with the same
arguments, one per bound slot each, and leave the ports one command leaves. -/
def Obligations.MaskedWriteIdempotent : Prop :=
  ∀ (op : MaskOp) (s t u : State) (m : VMask) (rest : List Bool),
    s.mode = .ready → s.gateOwner = .free →
    s.env.transport = List.replicate (s.cfg.boundSlots.length + s.cfg.boundSlots.length) false ++ rest →
    exec (op.instr m) s = .next t → t.lastStatus = .ok → exec (op.instr m) t = .next u →
    u.lastStatus = .ok ∧ u.ports = t.ports ∧ u.busUnknown = t.busUnknown ∧
    ∃ evs, t.trace = s.trace ++ evs ∧ u.trace = t.trace ++ evs ∧ evs.length = s.cfg.boundSlots.length

/-! ### The bus cycle -/

/-- R206, R208, R213: a `BUS_CYCLE` that samples a read and whose primitives all complete: the whole next state, with
the trace in order. -/
def Obligations.BusCycleReadCompletes : Prop :=
  ∀ (s : State) (f : Nat → InputSample) (rest : List Bool) (restI : List InputSample)
    (Lf Lr Lh Ll : PerSlot LMask),
    let b := s.cfg.boundSlots.length
    let tri := portsWith s.cfg (fun k d => { d with tri := some (Lf.get k) }) s.ports
    let input := aggregate s.cfg (returned tri f)
    let a := sampleBits input s.cfg.roleMap.addressBits
    let v := s.mem.read a
    let order := clockLastSlots s.cfg
    s.mode = .ready → s.gateOwner = .free → s.phase = .idle → s.rmStatus = .ok →
    s.cfg.roleMap.addressBits.length ≤ 32 →
    s.env.transport = List.replicate (5 * b) false ++ rest → s.env.inputs = s.cfg.boundSlots.map f ++ restI →
    fanOut s.cfg (floatMask s.cfg) = .ok Lf → fanOut s.cfg (readTriMask s.cfg) = .ok Lr →
    fanOut s.cfg (driveMask s.cfg true (some v)) = .ok Lh →
    fanOut s.cfg (driveMask s.cfg false (some v)) = .ok Ll →
    input.getLsbD (bitOfPin s.cfg.roleMap.rwPin) = s.cfg.rwReadLevel →
    exec .busCycle s = .next (answeredWith (fourBytes a ++ [v, 1#8])
      { s with
        seq := s.seq + 5#32, txnCount := s.txnCount + 1#32, busUnknown := false,
        curAddr := BitVec.ofNat 32 a, curDir := .read, curValue := v,
        lastValid := true, lastAddr := BitVec.ofNat 32 a, lastDir := .read, lastValue := v,
        ports := portsWith s.cfg (fun k d => { d with tri := some (Lr.get k), out := some (Ll.get k) }) s.ports,
        env := { s.env with transport := rest, inputs := restI, draws := s.env.draws + 6 * b },
        trace := s.trace ++
          ([.phase (s.seq + 1#32) .idle .floating .host] ++
           s.cfg.boundSlots.map (fun k => .dev k (.setTristate (Lf.get k)) .ok) ++
           [.phase (s.seq + 2#32) .floating .sampled .host] ++
           s.cfg.boundSlots.map (fun k => .dev k .readInput (.levels ((tri.get k).input (f k)))) ++
           [.phase (s.seq + 3#32) .sampled .readDrive .host] ++
           s.cfg.boundSlots.map (fun k => .dev k (.setTristate (Lr.get k)) .ok) ++
           [.memRead a v] ++
           order.map (fun k => .dev k (.setOutput (Lh.get k)) .ok) ++
           order.map (fun k => .dev k (.setOutput (Ll.get k)) .ok) ++
           [.phase (s.seq + 4#32) .readDrive .settled .host, .record (BitVec.ofNat 32 a) v .read,
            .phase (s.seq + 5#32) .settled .idle .host]) })

/-- R207, R208, R214: a `BUS_CYCLE` that samples a write and whose primitives all complete: the whole next state, with
the trace in order; the byte is stored at the sampled address. -/
def Obligations.BusCycleWriteCompletes : Prop :=
  ∀ (s : State) (f g : Nat → InputSample) (rest : List Bool) (restI : List InputSample)
    (Lf Lh Ll : PerSlot LMask),
    let b := s.cfg.boundSlots.length
    let tri := portsWith s.cfg (fun k d => { d with tri := some (Lf.get k) }) s.ports
    let input := aggregate s.cfg (returned tri f)
    let a := sampleBits input s.cfg.roleMap.addressBits
    let v := BitVec.ofNat 8 (sampleBits (aggregate s.cfg (returned tri g)) s.cfg.roleMap.dataBits)
    let order := clockLastSlots s.cfg
    s.mode = .ready → s.gateOwner = .free → s.phase = .idle → s.rmStatus = .ok →
    s.cfg.roleMap.addressBits.length ≤ 32 → s.cfg.roleMap.dataBits.length = 8 →
    s.env.transport = List.replicate (5 * b) false ++ rest →
    s.env.inputs = s.cfg.boundSlots.map f ++ (s.cfg.boundSlots.map g ++ restI) →
    fanOut s.cfg (floatMask s.cfg) = .ok Lf → fanOut s.cfg (driveMask s.cfg true none) = .ok Lh →
    fanOut s.cfg (driveMask s.cfg false none) = .ok Ll →
    input.getLsbD (bitOfPin s.cfg.roleMap.rwPin) ≠ s.cfg.rwReadLevel →
    exec .busCycle s = .next (answeredWith (fourBytes a ++ [v, 0#8])
      { s with
        seq := s.seq + 5#32, txnCount := s.txnCount + 1#32, busUnknown := false,
        curAddr := BitVec.ofNat 32 a, curDir := .write, curValue := v,
        lastValid := true, lastAddr := BitVec.ofNat 32 a, lastDir := .write, lastValue := v,
        ports := portsWith s.cfg (fun k d => { d with tri := some (Lf.get k), out := some (Ll.get k) }) s.ports,
        mem := s.mem.write a v,
        env := { s.env with transport := rest, inputs := restI, draws := s.env.draws + 7 * b },
        trace := s.trace ++
          ([.phase (s.seq + 1#32) .idle .floating .host] ++
           s.cfg.boundSlots.map (fun k => .dev k (.setTristate (Lf.get k)) .ok) ++
           [.phase (s.seq + 2#32) .floating .sampled .host] ++
           s.cfg.boundSlots.map (fun k => .dev k .readInput (.levels ((tri.get k).input (f k)))) ++
           [.phase (s.seq + 3#32) .sampled .writeCapture .host] ++
           order.map (fun k => .dev k (.setOutput (Lh.get k)) .ok) ++
           s.cfg.boundSlots.map (fun k => .dev k .readInput (.levels ((tri.get k).input (g k)))) ++
           [.memWrite a v] ++
           order.map (fun k => .dev k (.setOutput (Ll.get k)) .ok) ++
           [.phase (s.seq + 4#32) .writeCapture .settled .host, .record (BitVec.ofNat 32 a) v .write,
            .phase (s.seq + 5#32) .settled .idle .host]) })

/-- R202, R289: a `BUS_CYCLE` whose RoleMap check failed answers that error and does nothing else. -/
def Obligations.BusCyclePrecheckFails : Prop :=
  ∀ s : State, s.mode = .ready → s.gateOwner = .free → s.phase = .idle → roleCheckLatched s = true →
    s.rmStatus ≠ .ok →
    exec .busCycle s = .next (failedWith s.rmStatus s.rmErrPin s.rmErrSlot 0xFF#8 s)

/-- R209: whatever the environment does, a `BUS_CYCLE` ends in `Idle` with the gate free, either completed (one memory
call, one record, `SEQ` up by 5, no primitive failed) or aborted: the phase changes counted in `SEQ`, no record, no
`LAST_*` or `TXN_COUNT` change, the error answered, `BUS_UNKNOWN` set by a `TransportError`, at most one memory call,
which stays made. With a RoleMap that passed its check the only abort is the `TransportError` of a primitive: it ends the
transaction at once, with no event after the failing primitive's but the change to `Idle`, and its slot and code are
recorded. The supply and ground settings are untouched. -/
def Obligations.BusCycleCompletesOrAborts : Prop :=
  ∀ s t : State, s.mode = .ready → s.gateOwner = .free → s.phase = .idle → exec .busCycle s = .next t →
    t.phase = .idle ∧ t.gateOwner = .free ∧ t.frStatus = s.frStatus ∧
    (∀ k, k < 4 → (t.ports.get k).gnd = (s.ports.get k).gnd ∧ (t.ports.get k).sup = (s.ports.get k).sup ∧
      (t.ports.get k).vlevel = (s.ports.get k).vlevel ∧ (t.ports.get k).supEn = (s.ports.get k).supEn) ∧
    ∃ evs, t.trace = s.trace ++ evs ∧
      ((t.lastStatus = .ok ∧ t.txnCount = s.txnCount + 1#32 ∧ t.seq = s.seq + 5#32 ∧ recordCount evs = 1 ∧
        t.lastValid = true ∧ (∀ j q, Event.dev j q .transportError ∉ evs) ∧
        ((t.lastDir = .read ∧ memCalls evs = [.memRead t.lastAddr.toNat t.lastValue] ∧ t.mem = s.mem ∧
          t.lastValue = s.mem.read t.lastAddr.toNat) ∨
         (t.lastDir = .write ∧ memCalls evs = [.memWrite t.lastAddr.toNat t.lastValue] ∧
          t.mem = s.mem.write t.lastAddr.toNat t.lastValue))) ∨
       (t.lastStatus ≠ .ok ∧ t.responses = s.responses ++ [[t.lastStatus.code]] ∧
        (t.lastStatus = .transportError → t.busUnknown = true) ∧
        t.seq = s.seq + BitVec.ofNat 32 (phaseCount evs) ∧ t.txnCount = s.txnCount ∧ recordCount evs = 0 ∧ t.lastValid = s.lastValid ∧
        t.lastAddr = s.lastAddr ∧ t.lastValue = s.lastValue ∧ t.lastDir = s.lastDir ∧
        (s.rmStatus = .ok → checkRoleMap s.cfg = none →
          t.lastStatus = .transportError ∧ t.errPin = 0#16 ∧ t.errSrc = 0x00#8 ∧
          ∃ before k p src, evs = before ++ [.dev k p .transportError, .phase t.seq src .idle .host] ∧
            s.cfg.isBound k = true ∧ t.errSlot = BitVec.ofNat 8 k ∧ t.errPrim = p.code ∧
            ∀ j q, Event.dev j q .transportError ∉ before) ∧
        ((memCalls evs = [] ∧ t.mem = s.mem) ∨
         (memCalls evs = [.memRead t.curAddr.toNat t.curValue] ∧ t.mem = s.mem) ∨
         (memCalls evs = [.memWrite t.curAddr.toNat t.curValue] ∧
          t.mem = s.mem.write t.curAddr.toNat t.curValue))))

/-- R210, R36: after a completed read the data bus is host-owned and carries the byte read, and the clock is driven
low; after a completed write it is target-owned and the clock is driven low. The address
and rw pins are tri-stated after either. -/
def Obligations.DataBusOwnershipAfterCycle : Prop :=
  ∀ s t : State, s.mode = .ready → s.gateOwner = .free → s.cfg.nslots ≤ 4 → registryWf s.cfg = true →
    checkRoleMap s.cfg = none → exec .busCycle s = .next t → t.lastStatus = .ok →
    (∀ p ∈ s.cfg.roleMap.rwPin :: s.cfg.roleMap.addressBits, triBit t p = some true) ∧
    triBit t s.cfg.roleMap.clockPin = some false ∧ outBit t s.cfg.roleMap.clockPin = some false ∧
    (t.lastDir = .read → HostOwned t ∧
      ∀ i p, i < 8 → s.cfg.roleMap.dataBits[i]? = some p → outBit t p = some (t.lastValue.getLsbD i)) ∧
    (t.lastDir = .write → TargetOwned t)

/-! ### The gate and free-run -/

/-- R250, R251: while the worker holds the gate, a command that takes the gate is held: no state changes, no response is
given and it stays at the head of the port. -/
def Obligations.GateCommandIsHeld : Prop :=
  ∀ (i : Instr) (s : State), i.opcode.needsGate = true → s.mode = .ready → s.gateOwner = .freerun →
    exec i s = .next s

/-- R258, R250: when both agents want the free gate, either may get it, as the schedule says: the worker takes it, or the
host's command runs. The list of scheduling answers is the model's form (notes/assumptions/4.md), and a gate command
that runs whole in one step is its choice (notes/assumptions/7.md). -/
def Obligations.GrantOrderIsOpen : Prop :=
  ∀ (s : State) (i : Instr) (rest : List Agent),
    fetch s = some (.ok i) → i.opcode.needsGate = true → s.mode = .ready → s.gateOwner = .free →
    s.frRunning = true → s.frStage = .acquire →
    let after := { s with env := { s.env with schedule := rest, draws := s.env.draws + 1 } }
    (s.env.schedule = .freerun :: rest →
      step s = .next { after with gateOwner := .freerun, frStage := .txn .precheck }) ∧
    (s.env.schedule = .host :: rest → step s = exec i after)

/-- R252, R254: `FREE_RUN_START` starts a stopped worker at its loop's top and has no effect while it runs;
`FREE_RUN_CANCEL` sets the cancel flag of a running worker and has no effect otherwise. -/
def Obligations.FreeRunControlCompletes : Prop :=
  ∀ s : State, s.mode = .ready →
    (s.frRunning = false → exec .freeRunStart s = .next (answeredWith []
      { s with frCancel := false, frStatus := .ok, frRunning := true, frStage := .boundary })) ∧
    (s.frRunning = true → exec .freeRunStart s = .next (answeredWith [] s)) ∧
    (s.frRunning = true → exec .freeRunCancel s = .next (answeredWith [] { s with frCancel := true })) ∧
    (s.frRunning = false → exec .freeRunCancel s = .next (answeredWith [] s))

/-- R253: the worker's transaction, run action by action from a free gate with nothing in between, is the body of
`BUS_CYCLE` run as `freerun`: it ends about to release the gate, or with the error raised and about to stop.
What one action of the worker is, and which register writes share one, is the model's choice
(notes/assumptions/7.md, notes/assumptions/24.md). -/
def Obligations.WorkerRunsTheTransaction : Prop :=
  ∀ s : State, s.frStage = .acquire → s.gateOwner = .free →
    ∃ n, n ≤ 13 ∧ workerRun n s =
      match transaction { s with gateOwner := .freerun } with
      | .done _ t => { t with frStage := .release }
      | .error e t => { raiseWorker e t with frStage := .stopping }

/-- R253, R255: at the loop's top a pending cancel stops the worker and nothing else happens; a completed transaction
releases the gate, then records `OK`, then goes to the loop's top.
What one action of the worker is, and which register writes share one, is the model's choice
(notes/assumptions/7.md, notes/assumptions/24.md). -/
def Obligations.WorkerLoopBoundary : Prop :=
  ∀ s : State,
    (s.frStage = .boundary → s.frCancel = true →
      workerStep s = { s with frRunning := false, frCancel := false }) ∧
    (s.frStage = .boundary → s.frCancel = false → workerStep s = { s with frStage := .acquire }) ∧
    (s.frStage = .release → s.gateOwner = .freerun →
      workerRun 2 s = { s with gateOwner := .free, frStatus := .ok, frStage := .boundary })

/-- R255: inside a transaction the worker does not read the cancel flag.
What one action of the worker is, is the model's choice (notes/assumptions/7.md). -/
def Obligations.CancelReadOnlyAtBoundary : Prop :=
  ∀ (s : State) (cancel : Bool), s.frStage ≠ .boundary → s.frStage ≠ .stopping →
    workerStep { s with frCancel := cancel } = { workerStep s with frCancel := cancel }

/-- R256, R285, R291: a worker transaction that fails its precheck records the error as the worker's, frees the gate and
stops the worker. One whose primitive fails, at any action that issues primitives, issues no more: it leaves
`TransportError` in `FR_STATUS`, the failing slot and primitive in the error registers, `BUS_UNKNOWN` set, `PHASE` in
`Idle`, the gate free, no record and no memory change (R209), and the worker's next action stops it. `LAST_STATUS` and
the host port are untouched by either.
What one action of the worker is, and which register writes share one, is the model's choice
(notes/assumptions/7.md, notes/assumptions/24.md). -/
def Obligations.WorkerFailureStops : Prop :=
  (∀ s : State, s.frStage = .acquire → s.gateOwner = .free → s.phase = .idle → s.rmStatus ≠ .ok →
    s.rmStatus ≠ .transportError →
    workerRun 3 s = { s with frStatus := s.rmStatus, errPin := s.rmErrPin, errSlot := s.rmErrSlot,
                             errPrim := 0xFF#8, errSrc := 0x01#8, frRunning := false, frCancel := false,
                             frStage := .boundary }) ∧
  ∀ (s : State) (st : TxnStage) (before after : List Nat) (k : Nat) (rest : List Bool),
    arbitrated s = true → checkRoleMap s.cfg = none → s.frStage = .txn st → st.slots s.cfg = before ++ k :: after →
    s.env.transport = List.replicate before.length false ++ true :: rest →
    let t := workerStep s
    t.frStatus = .transportError ∧ t.errPin = 0#16 ∧ t.errSlot = BitVec.ofNat 8 k ∧ t.errPrim = st.primCode ∧
    t.errSrc = 0x01#8 ∧ t.busUnknown = true ∧ t.phase = .idle ∧ t.seq = s.seq + 1#32 ∧ t.gateOwner = .free ∧
    t.lastStatus = s.lastStatus ∧ t.cmds = s.cmds ∧ t.responses = s.responses ∧ t.txnCount = s.txnCount ∧
    t.lastValid = s.lastValid ∧ t.lastAddr = s.lastAddr ∧ t.lastValue = s.lastValue ∧ t.lastDir = s.lastDir ∧
    t.mem = s.mem ∧ t.env.transport = rest ∧ t.frRunning = true ∧ t.frCancel = s.frCancel ∧
    (∃ evs p, t.trace = s.trace ++ evs ++ [.dev k p .transportError, .phase t.seq s.phase .idle .freerun] ∧
      evs.length = before.length ∧ p.code = st.primCode ∧ ∀ e ∈ evs, ∃ j q r, e = .dev j q r ∧ r ≠ .transportError) ∧
    workerStep t = { t with frRunning := false, frCancel := false, frStage := .boundary }

/-- R253, R291: no action of the worker touches the host port's registers or queues, or the devices' ground and supply
settings (R347). What one action of the worker is, is the model's choice (notes/assumptions/7.md). -/
def Obligations.WorkerLeavesHostPort : Prop :=
  ∀ s : State,
    (workerStep s).lastStatus = s.lastStatus ∧ (workerStep s).cmds = s.cmds ∧
    (workerStep s).responses = s.responses ∧
    ∀ k, k < 4 → ((workerStep s).ports.get k).gnd = (s.ports.get k).gnd ∧
      ((workerStep s).ports.get k).sup = (s.ports.get k).sup ∧
      ((workerStep s).ports.get k).vlevel = (s.ports.get k).vlevel ∧
      ((workerStep s).ports.get k).supEn = (s.ports.get k).supEn

/-- R250, R258 (93 U17): a worker that holds the gate releases it within 13 of its own actions, whatever the
environment does.
What one action of the worker is, and which register writes share one, is the model's choice
(notes/assumptions/7.md, notes/assumptions/24.md). -/
def Obligations.GateIsReleased : Prop :=
  ∀ s : State, arbitrated s = true → s.frStage.holdsGate = true →
    ∃ n, n ≤ 13 ∧ (workerRun n s).gateOwner = .free

/-! ### Registers, errors, modes -/

/-- R257, R38: `READ_REG` answers the register's field, zero-extended, in four bytes, in either mode, and changes nothing,
`LAST_STATUS` neither. -/
def Obligations.ReadRegAnswers : Prop :=
  ∀ (r : Reg) (s : State), s.cfg.nslots ≤ 4 → s.cfg.roleMap.addressBits.length < 64 →
    exec (.readReg r) s = .next
      { s with cmds := s.cmds.tail, responses := s.responses ++ [0x00#8 :: fourBytes (regField r s)] }

/-- R300: in `FAILED` mode every command but `READ_REG` (and a `PINS_FOR_SLOT` outside the enumeration, which is
illegal) answers the code in `LAST_STATUS` and changes no register, port, memory or trace; an undecodable one answers
`IllegalCommand` and changes no more; `READ_REG` answers; no step leaves the mode or `LAST_STATUS`, and no transaction
runs: the trace grows no more. -/
def Obligations.FailedModeRefuses : Prop :=
  ∀ s : State, s.mode = .failed →
    (∀ i : Instr, i.wellFormed s.cfg.nslots = true → (∀ r, i ≠ .readReg r) →
      exec i s = .next { s with cmds := s.cmds.tail, responses := s.responses ++ [[s.lastStatus.code]] }) ∧
    (∀ e, fetch s = some (.error e) →
      hostStep s = .next { s with cmds := s.cmds.tail, responses := s.responses ++ [[0x07#8]] }) ∧
    (∀ r, ∃ value : List Byte, value.length = 4 ∧ exec (.readReg r) s =
      .next { s with cmds := s.cmds.tail, responses := s.responses ++ [0x00#8 :: value] }) ∧
    ∀ t, step s = .next t → t.mode = .failed ∧ t.lastStatus = s.lastStatus ∧
      (arbitrated s = true → t.trace = s.trace ∧ t.gateOwner = .free ∧ t.frRunning = false)

/-- R107, R288: an undecodable command at the head of the port, when the host port moves, is answered
`IllegalCommand`; in `READY` mode only `LAST_STATUS` and the error registers change, even while the worker is inside a
transaction. That a host error leaves the worker's phase is the model's reading of R285 (notes/assumptions/9.md). -/
def Obligations.IllegalCommandAnswered : Prop :=
  ∀ (s : State) (e : DecodeError) (rest : List Agent), fetch s = some (.error e) →
    (workerReady s = true → s.env.schedule = .host :: rest) →
    let s' := if workerReady s then { s with env := { s.env with schedule := rest, draws := s.env.draws + 1 } } else s
    (s.mode = .ready → s.gateOwner ≠ .host →
      step s = .next (failedWith .illegalCommand 0#16 0xFF#8 0xFF#8 s')) ∧
    (s.mode = .failed →
      step s = .next { s' with cmds := s.cmds.tail, responses := s.responses ++ [[0x07#8]] })

/-- R280, R290: no step and no command ever ends in a fault or a refusal. -/
def Obligations.EveryStepGoesOn : Prop :=
  (∀ s, ∃ t, step s = .next t) ∧ ∀ i s, ∃ t, exec i s = .next t

/-- R100, R101, R106: a command is either held at the gate with nothing changed, or taken off the port with exactly one
response: the one byte of its error code, or `00` and the result, of the length R106 gives. -/
def Obligations.OneResponsePerCommand : Prop :=
  ∀ (i : Instr) (s t : State), modeRecorded s = true → exec i s = .next t →
    (t = s ∧ i.opcode.needsGate = true ∧ s.gateOwner ≠ .free) ∨
    (t.cmds = s.cmds.tail ∧ ∃ r, t.responses = s.responses ++ [r] ∧
      ((r.length = i.opcode.okLength s.cfg.nslots ∧ r.head? = some 0x00#8) ∨
       ∃ st : Status, st ≠ .ok ∧ r = [st.code]))

/-- When the command at the head of the port decodes (R100), a step that the host port takes is `exec` of it, on the
state itself if the worker cannot move, and otherwise on the state with the scheduling answer used up; a step the worker
takes is one of its actions (R253). When both can move either may, as the schedule says (R258); when only the worker can,
it does; when neither can, nothing changes. The host port can move unless no command waits or a gate command waits for
the gate (R250, R288, R300), the worker while it runs and does not wait for the gate (R250, R253). That one host command
is one step and one action of the worker is one step is the model's choice (notes/assumptions/7.md), and so are the list
that holds the scheduling answers (notes/assumptions/4.md) and the step of an idle block (notes/assumptions/8.md). -/
def Obligations.StepRunsDecodedCommand : Prop :=
  ∀ (s : State) (i : Instr) (rest : List Agent),
    let after := fun (schedule : List Agent) =>
      { s with env := { s.env with schedule := schedule, draws := s.env.draws + 1 } }
    (fetch s = some (.ok i) → hostReady s = true →
      (workerReady s = false → step s = exec i s) ∧
      (workerReady s = true → s.env.schedule = .host :: rest → step s = exec i (after rest)) ∧
      (workerReady s = true → s.env.schedule = [] →
        step s = exec i (after []) ∨ step s = .next (workerStep (after [])))) ∧
    (hostReady s = true → workerReady s = true → s.env.schedule = .freerun :: rest →
      step s = .next (workerStep (after rest))) ∧
    (hostReady s = false → workerReady s = true → step s = .next (workerStep s)) ∧
    (hostReady s = false → workerReady s = false → step s = .next s) ∧
    (hostReady s = true ↔ ∃ r, fetch s = some r ∧
      ∀ j, r = .ok j → j.opcode.needsGate = true → s.mode = .failed ∨ s.gateOwner = .free) ∧
    (workerReady s = true ↔ s.frRunning = true ∧ (s.frStage = .acquire → s.gateOwner = .free))

/-! ### Invariants every step keeps -/

/-- R250, R81, R300: between steps the gate is the worker's exactly while it is in its hold and free otherwise, `PHASE`
is that of the worker's place, a stopped worker has no cancel pending, and none runs in `FAILED` mode: every step keeps
it. That a host error leaves the worker's phase is the model's reading of R285 (notes/assumptions/9.md).
What one action of the worker is, and which register writes share one, is the model's choice
(notes/assumptions/7.md, notes/assumptions/24.md). -/
def Obligations.ArbitrationKept : Prop :=
  ∀ s t : State, arbitrated s = true → step s = .next t → arbitrated t = true

/-- R81, R201: the phase events of the trace follow the transitions of R201, each transaction's under one owner and none
interleaved with another's, and lead to the present phase: every step keeps it. That a host error leaves the worker's phase is
the model's reading of R285 (notes/assumptions/9.md). -/
def Obligations.TransactionsNeverInterleave : Prop :=
  ∀ s t : State, arbitrated s = true →
    followPhases (some (.idle, .free)) s.trace =
      some (s.phase, if s.phase = .idle then .free else s.gateOwner) →
    step s = .next t →
    followPhases (some (.idle, .free)) t.trace =
      some (t.phase, if t.phase = .idle then .free else t.gateOwner)

/-- R30, R29, R201: `SEQ` counts the trace's phase events and numbers them, `TXN_COUNT` counts its records, and `LAST_*`
hold its last record: every step keeps it.
What one action of the worker is, and which register writes share one, is the model's choice
(notes/assumptions/7.md, notes/assumptions/24.md). -/
def Obligations.CountersFollowTrace : Prop :=
  ∀ s t : State,
    let follows := fun (x : State) =>
      x.seq = BitVec.ofNat 32 (phaseCount x.trace) ∧ numberedFrom 0 x.trace = true ∧
      x.txnCount = BitVec.ofNat 32 (recordCount x.trace) ∧
      lastRecordOf none x.trace = if x.lastValid then some (x.lastAddr, x.lastValue, x.lastDir) else none
    follows s → step s = .next t → follows t

/-- R80, R75: the memory is what the trace's `MemWrite`s made of `MEM0`, and every `MemRead` returned the byte of the most
recent `MemWrite` to its address: every step keeps it. What a read of the memory and a write to it are is stated in
`MemoryCanonical`. -/
def Obligations.MemoryFollowsTrace : Prop :=
  ∀ s t : State,
    let follows := fun (x : State) =>
      x.mem = replayMem (Memory.ofCells x.cfg.mem0) x.trace ∧
      readsAgree (Memory.ofCells x.cfg.mem0) x.trace = true
    follows s → step s = .next t → follows t

/-- R71, R73, R39: the device ports are what the trace's primitives made of unknown ports, and no unbound slot's port was
ever written: every step keeps it. -/
def Obligations.PortsFollowTrace : Prop :=
  ∀ s t : State,
    let follows := fun (x : State) =>
      x.ports = replayPorts (PerSlot.tabulate fun _ => Port.unknown) x.trace ∧ unboundUntouched x = true
    follows s → step s = .next t → follows t

/-- The invariants (arbitration, interleaving, counters, memory, ports) hold after reset, for every configuration and
environment (R320, R324). -/
def Obligations.InvariantsAtReset : Prop :=
  ∀ (c : Config) (e : Env),
    let s := State.resetWith c e
    arbitrated s = true ∧
    followPhases (some (.idle, .free)) s.trace = some (.idle, .free) ∧
    s.seq = BitVec.ofNat 32 (phaseCount s.trace) ∧ numberedFrom 0 s.trace = true ∧
    s.txnCount = BitVec.ofNat 32 (recordCount s.trace) ∧ lastRecordOf none s.trace = none ∧
    s.lastValid = false ∧ s.mem = replayMem (Memory.ofCells c.mem0) s.trace ∧
    readsAgree (Memory.ofCells c.mem0) s.trace = true ∧
    s.ports = replayPorts (PerSlot.tabulate fun _ => Port.unknown) s.trace ∧ unboundUntouched s = true

/-- R75: a write sets the byte at its address and no other; an address with no content reads 0. R40: the memory made of
`MEM0` holds the byte `MEM0` gives an address, and 0 at every other. The memory keeps its canonical form, and has it after
reset; that form is the model's (notes/assumptions/14.md). -/
def Obligations.MemoryCanonical : Prop :=
  (∀ m : Memory, m.wf = true → ∀ a v, (m.write a v).wf = true ∧
    ∀ x, (m.write a v).read x = if x = a then v else m.read x) ∧
  (∀ x, Memory.read [] x = 0#8) ∧
  (∀ cells : List (Nat × Byte), (cells.map Prod.fst).Nodup → ∀ a,
    (∀ v, (a, v) ∈ cells → (Memory.ofCells cells).read a = v) ∧
    (a ∉ cells.map Prod.fst → (Memory.ofCells cells).read a = 0#8)) ∧
  (∀ s t : State, s.mem.wf = true → step s = .next t → t.mem.wf = true) ∧
  ∀ (c : Config) (e : Env), (State.resetWith c e).mem.wf = true

/-- R26, R300, R320: in `READY` the registry is well-formed and the RoleMap check registers are the configuration's; in
`FAILED` `LAST_STATUS` keeps a reset error: every step keeps it, and it holds after reset. -/
def Obligations.ModeRecordKept : Prop :=
  (∀ s t : State, modeRecorded s = true → step s = .next t → modeRecorded t = true) ∧
  ∀ (c : Config) (e : Env), modeRecorded (State.resetWith c e) = true
end

