-- ==== Sys2Proof/Laws/Memory.lean ====
section
/-!
SUPPORT. Laws of the target memory: read after write, and the canonical form (spec 20_memory.md R75).
-/

namespace Sys2Proof.Machine

theorem Memory.read_cons (a : Nat) (v : Byte) (m : Memory) (x : Nat)
    (hm : ∀ cell ∈ m, a < cell.1) : (Memory.cons a v m).read x = if x = a then v else m.read x := by
  have hmiss : m.read a = Memory.unlisted := by
    induction m with
    | nil => rfl
    | cons cell m ih =>
      obtain ⟨b, w⟩ := cell
      have hb : a < b := hm (b, w) (by simp)
      have : b ≠ a := by omega
      simp only [Memory.read, this, if_false]
      exact ih fun c hc => hm c (by simp [hc])
  unfold Memory.cons
  split
  · subst_vars
    by_cases hx : x = a
    · subst hx; simpa using hmiss
    · simp [hx]
  · by_cases hx : x = a
    · subst hx; simp [Memory.read]
    · have : a ≠ x := fun h => hx h.symm
      simp [Memory.read, this, hx]

/-- The canonical form, address by address. -/
theorem Memory.wf_cons (b : Nat) (w : Byte) (m : Memory) :
    Memory.wf ((b, w) :: m) = true ↔ (∀ cell ∈ m, b < cell.1) ∧ w ≠ Memory.unlisted ∧ Memory.wf m = true := by
  simp only [Memory.wf, List.map_cons, List.pairwise_cons, List.all_cons, Bool.and_eq_true, decide_eq_true_eq,
    bne_iff_ne, ne_eq, List.mem_map]
  constructor
  · rintro ⟨⟨h1, h2⟩, h3, h4⟩
    exact ⟨fun c hc => h1 c.1 ⟨c, hc, rfl⟩, h3, h2, h4⟩
  · rintro ⟨h1, h3, h2, h4⟩
    refine ⟨⟨?_, h2⟩, h3, h4⟩
    rintro x ⟨c, hc, rfl⟩
    exact h1 c hc

/-- A store changes the byte at its address and no other. -/
theorem Memory.read_write (m : Memory) (h : m.wf = true) (a : Nat) (v : Byte) (x : Nat) :
    (m.write a v).read x = if x = a then v else m.read x := by
  induction m with
  | nil => simpa [Memory.write] using Memory.read_cons a v [] x (by simp)
  | cons cell m ih =>
    obtain ⟨b, w⟩ := cell
    obtain ⟨hb, hw, hm⟩ := (Memory.wf_cons b w m).mp h
    simp only [Memory.write]
    split
    · rename_i hab
      refine Memory.read_cons a v ((b, w) :: m) x ?_
      intro c hc
      rcases List.mem_cons.mp hc with rfl | hc
      · exact hab
      · have := hb c hc
        omega
    · split
      · rename_i hab
        subst hab
        rw [Memory.read_cons a v m x hb]
        by_cases hx : x = a
        · simp [hx]
        · have : a ≠ x := fun h => hx h.symm
          simp [hx, Memory.read, this]
      · rename_i hab hne
        by_cases hx : b = x
        · subst hx
          have : b ≠ a := fun h => hne h.symm
          simp [Memory.read, this]
        · simp [Memory.read, hx, ih hm]

@[simp] theorem Memory.read_write_same (m : Memory) (h : m.wf = true) (a : Nat) (v : Byte) :
    (m.write a v).read a = v := by simp [Memory.read_write m h]

theorem Memory.read_write_other (m : Memory) (h : m.wf = true) {a x : Nat} (v : Byte) (hx : x ≠ a) :
    (m.write a v).read x = m.read x := by simp [Memory.read_write m h, hx]

theorem Memory.cons_wf {a : Nat} {v : Byte} {m : Memory} (hm : ∀ cell ∈ m, a < cell.1) (h : m.wf = true) :
    (Memory.cons a v m).wf = true := by
  unfold Memory.cons
  split
  · exact h
  · exact (Memory.wf_cons a v m).mpr ⟨hm, ‹_›, h⟩

theorem Memory.mem_cons {a : Nat} {v : Byte} {m : Memory} {c : Host.Cell} (h : c ∈ Memory.cons a v m) :
    c = (a, v) ∨ c ∈ m := by
  unfold Memory.cons at h
  split at h
  · exact .inr h
  · simpa using h

theorem Memory.mem_write {m : Memory} {a : Nat} {v : Byte} {c : Host.Cell} (h : c ∈ m.write a v) :
    c.1 = a ∨ c ∈ m := by
  induction m with
  | nil => rcases Memory.mem_cons h with rfl | h <;> simp_all
  | cons cell m ih =>
    obtain ⟨b, w⟩ := cell
    simp only [Memory.write] at h
    split at h
    · rcases Memory.mem_cons h with rfl | h <;> simp_all
    · split at h
      · rcases Memory.mem_cons h with rfl | h <;> simp_all
      · rcases List.mem_cons.mp h with rfl | h
        · simp
        · rcases ih h with h | h <;> simp_all

/-- A store keeps the canonical form. -/
theorem Memory.write_wf {m : Memory} (h : m.wf = true) (a : Nat) (v : Byte) : (m.write a v).wf = true := by
  induction m with
  | nil => exact Memory.cons_wf (by simp) h
  | cons cell m ih =>
    obtain ⟨b, w⟩ := cell
    obtain ⟨hb, hw, hm⟩ := (Memory.wf_cons b w m).mp h
    simp only [Memory.write]
    split
    · refine Memory.cons_wf ?_ h
      intro c hc
      rcases List.mem_cons.mp hc with rfl | hc
      · assumption
      · have := hb c hc
        omega
    · split
      · rename_i hab
        subst hab
        exact Memory.cons_wf hb hm
      · refine (Memory.wf_cons b w _).mpr ⟨?_, hw, ih hm⟩
        intro c hc
        rcases Memory.mem_write hc with h1 | h1
        · omega
        · exact hb c h1

/-- The memory built from a finite map has the canonical form. -/
theorem Memory.ofCells_wf (cells : List (Nat × Byte)) : (Memory.ofCells cells).wf = true := by
  have h : ∀ (l : List (Nat × Byte)) (m : Memory), m.wf = true →
      (l.foldl (fun m cell => Memory.write m cell.1 cell.2) m).wf = true := by
    intro l
    induction l with
    | nil => exact fun m hm => hm
    | cons c l ih => exact fun m hm => ih _ (Memory.write_wf hm c.1 c.2)
  exact h cells [] rfl

/-- Two memories in canonical form that read alike are equal. -/
theorem Memory.ext {m m' : Memory} (h : m.wf = true) (h' : m'.wf = true) (hr : ∀ a, m.read a = m'.read a) :
    m = m' := by
  induction m generalizing m' with
  | nil =>
    cases m' with
    | nil => rfl
    | cons c l =>
      obtain ⟨b, w⟩ := c
      obtain ⟨_, hw, _⟩ := (Memory.wf_cons b w l).mp h'
      exact absurd (hr b).symm (by simpa [Memory.read] using hw)
  | cons c l ih =>
    obtain ⟨b, w⟩ := c
    obtain ⟨hb, hw, hl⟩ := (Memory.wf_cons b w l).mp h
    have below : ∀ (k : Memory), k.wf = true → ∀ a, (∀ cell ∈ k, a < cell.1) → k.read a = Memory.unlisted := by
      intro k _ a hk
      have := Memory.read_cons a Memory.unlisted k a hk
      simpa [Memory.cons] using this
    cases m' with
    | nil => exact absurd (hr b) (by simpa [Memory.read] using hw)
    | cons c' l' =>
      obtain ⟨b', w'⟩ := c'
      obtain ⟨hb', hw', hl'⟩ := (Memory.wf_cons b' w' l').mp h'
      have hbb : b = b' := by
        rcases Nat.lt_trichotomy b b' with hlt | heq | hgt
        · have h1 := hr b
          have h2 := below ((b', w') :: l') h' b (by
            intro c hc
            rcases List.mem_cons.mp hc with rfl | hc
            · exact hlt
            · have := hb' c hc
              omega)
          rw [h2] at h1
          exact absurd h1 (by simpa [Memory.read] using hw)
        · exact heq
        · have h1 := hr b'
          have h2 := below ((b, w) :: l) h b' (by
            intro c hc
            rcases List.mem_cons.mp hc with rfl | hc
            · exact hgt
            · have := hb c hc
              omega)
          rw [h2] at h1
          exact absurd h1.symm (by simpa [Memory.read] using hw')
      subst hbb
      have hww : w = w' := by simpa [Memory.read] using hr b
      subst hww
      congr 1
      refine ih hl hl' fun a => ?_
      by_cases ha : b = a
      · subst ha
        rw [below l hl b hb, below l' hl' b hb']
      · simpa [Memory.read, ha] using hr a

end Sys2Proof.Machine
end

