-- ==== Sys2Proof/Laws/Operands.lean ====
section
/-!
SUPPORT. Laws of the per-slot record and of the byte and mask layouts (spec 30_encoding.md R102 to R104).
-/

namespace Sys2Proof

variable {α : Type}

@[simp] theorem PerSlot.get_tabulate (f : Nat → α) {k : Nat} (h : k < 4) :
    (PerSlot.tabulate f).get k = f k := by
  match k, h with
  | 0, _ => rfl
  | 1, _ => rfl
  | 2, _ => rfl
  | 3, _ => rfl

theorem PerSlot.get_set (v : PerSlot α) (a : α) {j k : Nat} (hj : j < 4) (hk : k < 4) :
    (v.set j a).get k = if k = j then a else v.get k := by
  have : j = 0 ∨ j = 1 ∨ j = 2 ∨ j = 3 := by omega
  have : k = 0 ∨ k = 1 ∨ k = 2 ∨ k = 3 := by omega
  rcases ‹j = 0 ∨ j = 1 ∨ j = 2 ∨ j = 3› with rfl | rfl | rfl | rfl <;>
    rcases ‹k = 0 ∨ k = 1 ∨ k = 2 ∨ k = 3› with rfl | rfl | rfl | rfl <;> rfl

@[simp] theorem PerSlot.get_set_same (v : PerSlot α) (a : α) {k : Nat} (h : k < 4) : (v.set k a).get k = a := by
  simp [PerSlot.get_set v a h h]

/-- Setting one slot leaves every other one. -/
theorem PerSlot.get_set_other (v : PerSlot α) (a : α) {j k : Nat} (hk : k < 4) (h : k ≠ j) :
    (v.set j a).get k = v.get k := by
  by_cases hj : j < 4
  · simp [PerSlot.get_set v a hj hk, h]
  · match j, hj with
    | n + 4, _ => rfl
    | 0, hj => omega
    | 1, hj => omega
    | 2, hj => omega
    | 3, hj => omega

/-- Writing back what a slot holds changes nothing. -/
@[simp] theorem PerSlot.set_get_self (v : PerSlot α) (k : Nat) : v.set k (v.get k) = v := by
  match k with
  | 0 => rfl
  | 1 => rfl
  | 2 => rfl
  | 3 => rfl
  | _ + 4 => rfl

/-- Two records are equal when they agree on the four slots. -/
theorem PerSlot.ext_get {v w : PerSlot α} (h : ∀ k, k < 4 → v.get k = w.get k) : v = w := by
  cases v; cases w
  have h0 := h 0 (by omega)
  have h1 := h 1 (by omega)
  have h2 := h 2 (by omega)
  have h3 := h 3 (by omega)
  simp only [PerSlot.get] at h0 h1 h2 h3
  simp [h0, h1, h2, h3]

namespace Machine

@[simp] theorem length_leBytes (n v : Nat) : (leBytes n v).length = n := by
  induction n generalizing v with
  | zero => rfl
  | succ n ih => simp [leBytes, ih]

/-- Reading back the bytes of a value gives the value, cut to the field's width. -/
theorem leNat_leBytes (n v : Nat) : leNat (leBytes n v) = v % 256 ^ n := by
  induction n generalizing v with
  | zero => simp [leBytes, leNat, Nat.mod_one]
  | succ n ih =>
    have h : v % 256 ^ (n + 1) = v % 256 + 256 * (v / 256 % 256 ^ n) := by
      rw [Nat.pow_succ, Nat.mul_comm (256 ^ n) 256, Nat.mod_mul]
    simpa only [leBytes, leNat, ih, BitVec.toNat_ofNat] using h.symm

theorem leNat_leBytes_of_lt {n v : Nat} (h : v < 256 ^ n) : leNat (leBytes n v) = v := by
  rw [leNat_leBytes, Nat.mod_eq_of_lt h]

/-- A field of `n` bytes is less than `256 ^ n`. -/
theorem leNat_lt (bs : List Byte) : leNat bs < 256 ^ bs.length := by
  induction bs with
  | nil => simp [leNat]
  | cons b bs ih =>
    have := b.isLt
    simp only [leNat, List.length_cons, Nat.pow_succ]
    omega

/-- Laying out the value of a byte field gives the bytes. -/
theorem leBytes_leNat (bs : List Byte) : leBytes bs.length (leNat bs) = bs := by
  induction bs with
  | nil => rfl
  | cons b bs ih =>
    have hb := b.isLt
    have h1 : (b.toNat + 256 * leNat bs) / 256 = leNat bs := by omega
    have h2 : BitVec.ofNat 8 (b.toNat + 256 * leNat bs) = b := by
      apply BitVec.eq_of_toNat_eq
      simp only [BitVec.toNat_ofNat]
      omega
    simp only [leNat, List.length_cons, leBytes, h1, h2, ih]

/-- Bit `k mod 8` of byte `k / 8` of a laid-out value is bit `k` of the value (R103, R104). -/
theorem getLsbD_leBytes {n k : Nat} (v : Nat) (h : k < 8 * n) :
    ((leBytes n v).getD (k / 8) 0#8).getLsbD (k % 8) = v.testBit k := by
  induction n generalizing v k with
  | zero => omega
  | succ n ih =>
    by_cases hk : k < 8
    · have h0 : k / 8 = 0 := by omega
      have h1 : k % 8 = k := by omega
      simp only [h0, h1, leBytes, List.getD_cons_zero, BitVec.getLsbD_ofNat]
      simp [hk]
    · have h0 : k / 8 = (k - 8) / 8 + 1 := by omega
      have h1 : k % 8 = (k - 8) % 8 := by omega
      have h2 : v.testBit k = (v / 256).testBit (k - 8) := by
        have hk8 : k = (k - 8) + 8 := by omega
        rw [show (256 : Nat) = 2 ^ 8 from rfl, ← Nat.shiftRight_eq_div_pow, Nat.testBit_shiftRight]
        congr 1
        omega
      rw [h0, h1, h2, leBytes, List.getD_cons_succ]
      exact ih (v / 256) (by omega)

/-- The bits of a mask built from a predicate. -/
theorem getLsbD_maskOf (n : Nat) (P : Nat → Bool) (k : Nat) :
    (maskOf n P).getLsbD k = (decide (k < n) && decide (k < 160) && P k) := by
  induction n with
  | zero => simp [maskOf]
  | succ n ih =>
    simp only [maskOf, BitVec.getLsbD_or, ih]
    by_cases hn : k = n
    · subst hn
      cases hP : P k <;> simp [BitVec.getLsbD_shiftLeft]
    · have h1 : (decide (k < n + 1)) = decide (k < n) := by
        simp only [decide_eq_decide]; omega
      have h2 : (if P n = true then (1#160 <<< n) else 0#160).getLsbD k = false := by
        split
        · simp only [BitVec.getLsbD_shiftLeft]
          by_cases hlt : k < n
          · simp [hlt]
          · have hz : k - n ≠ 0 := by omega
            simp [hz]
        · simp
      rw [h1, h2, Bool.or_false]

/-- The local bit of local pin `l` is bit `l-1`. -/
theorem getLsbD_localBit (l j : Nat) : (localBit l).getLsbD j = (decide (j < 40) && decide (j = l - 1)) := by
  simp only [localBit, BitVec.getLsbD_shiftLeft]
  by_cases h : j = l - 1
  · subst h; simp
  · by_cases hlt : j < l - 1
    · simp [hlt, h]
    · have hz : j - (l - 1) ≠ 0 := by omega
      simp [h, hz]

@[simp] theorem length_vmaskBytes (n : Nat) (m : VMask) : (vmaskBytes n m).length = 5 * n := by
  simp [vmaskBytes]

@[simp] theorem length_lmaskBytes (m : LMask) : (lmaskBytes m).length = 5 := by simp [lmaskBytes]

@[simp] theorem length_lmasksBytes (n : Nat) (v : PerSlot LMask) : (lmasksBytes n v).length = 5 * n := by
  simp [lmasksBytes, List.length_flatMap, Nat.mul_comm]

/-- The value of sampled bits is below two to their number. -/
theorem bitsToNat_lt (bs : List Bool) : bitsToNat bs < 2 ^ bs.length := by
  induction bs with
  | nil => simp [bitsToNat]
  | cons b bs ih =>
    have : b.toNat ≤ 1 := Bool.toNat_le b
    simp only [bitsToNat, List.length_cons, Nat.pow_succ]
    omega

/-- Bit `i` of the value of sampled bits is the `i`-th bit (R68). -/
theorem testBit_bitsToNat (bs : List Bool) (i : Nat) : (bitsToNat bs).testBit i = bs.getD i false := by
  induction bs generalizing i with
  | nil => simp [bitsToNat]
  | cons b bs ih =>
    cases i with
    | zero => cases b <;> simp [bitsToNat, Nat.testBit_zero]
    | succ i =>
      have h : (b.toNat + 2 * bitsToNat bs) / 2 = bitsToNat bs := by
        have : b.toNat ≤ 1 := Bool.toNat_le b
        omega
      simp only [bitsToNat, Nat.testBit_succ, h, ih, List.getD_cons_succ]

end Machine

end Sys2Proof
end

