-- ==== Sys2Proof/Laws/PinMap.lean ====
section
/-!
SUPPORT. Laws of the pin map: the bound slots, masks of pin sets, what fan-out and fan-in compute (spec
41_virtual_bus.md R160, R162).
-/

namespace Sys2Proof

theorem Config.isBound_lt {c : Config} {k : Nat} (h : c.isBound k = true) : k < 4 := by
  simp only [Config.isBound, Bool.and_eq_true] at h
  exact BitVec.lt_of_getLsbD h.2

@[simp] theorem Config.mem_boundSlots (c : Config) (k : Nat) : k ∈ c.boundSlots ↔ c.isBound k = true := by
  simp only [Config.boundSlots, List.mem_filter]
  constructor
  · exact fun h => h.2
  · intro h
    have := Config.isBound_lt h
    refine ⟨?_, h⟩
    simp only [List.mem_cons, List.not_mem_nil, or_false]
    omega

theorem Config.boundSlots_nodup (c : Config) : c.boundSlots.Nodup :=
  List.Nodup.filter _ (by decide)

/-- The bound slots come in increasing order (R11). -/
theorem Config.boundSlots_sorted (c : Config) : c.boundSlots.Pairwise (· < ·) :=
  List.Pairwise.filter _ (by decide)

namespace Machine

/-- The bits of the mask of a pin set. -/
@[simp] theorem getLsbD_pinMask (c : Config) (S : VPin → Bool) (k : Nat) :
    (pinMask c S).getLsbD k = (decide (k < c.numPins) && decide (k < 160) && S (pinOfBit k)) :=
  getLsbD_maskOf _ _ _

@[simp] theorem bitOfPin_pinOfBit (k : Nat) : bitOfPin (pinOfBit k) = k := by
  simp [bitOfPin, pinOfBit]

theorem pinOfBit_bitOfPin {p : VPin} (h : 1 ≤ p) : pinOfBit (bitOfPin p) = p := by
  show Int.ofNat ((p - 1).toNat + 1) = p
  rw [Int.ofNat_eq_natCast]
  have h1 : (1 : Int) ≤ p := h
  have h2 : (((p - 1).toNat : Nat) : Int) = p - 1 := Int.toNat_of_nonneg (by omega)
  omega

/-- The order of the sequencer's `set_output` calls visits the same slots (R74). -/
theorem clockLastSlots_perm (c : Config) : (clockLastSlots c).Perm c.boundSlots := by
  unfold clockLastSlots
  split
  · rename_i k _ _
    have h := List.filter_append_perm (fun s : Nat => s != k) c.boundSlots
    have h' : (fun s : Nat => s == k) = fun s => !(s != k) := by funext s; simp [bne]
    rwa [h']
  · exact List.Perm.refl _

@[simp] theorem mem_clockLastSlots (c : Config) (k : Nat) : k ∈ clockLastSlots c ↔ c.isBound k = true :=
  (clockLastSlots_perm c).mem_iff.trans (Config.mem_boundSlots c k)

theorem clockLastSlots_nodup (c : Config) : (clockLastSlots c).Nodup :=
  (clockLastSlots_perm c).nodup_iff.mpr (Config.boundSlots_nodup c)

@[simp] theorem length_clockLastSlots (c : Config) : (clockLastSlots c).length = c.boundSlots.length :=
  (clockLastSlots_perm c).length_eq

/-- The error a set bit of a mask raises for its pin, if it raises one (R160). -/
def pinFault (c : Config) (p : VPin) : Option Raise :=
  match res c p with
  | none => some (unmappedPin p)
  | some (s, _) => if c.isBound s then none else some (unboundDevice p s)

theorem pinFault_eq_none {c : Config} {p : VPin} :
    pinFault c p = none ↔ ∃ s l, res c p = some (s, l) ∧ c.isBound s = true := by
  unfold pinFault
  split
  · simp_all
  · rename_i s l h
    simp [h]

/-- What `fan_out` over a list of bits does, once and for all: either every set bit's pin maps to a bound slot, and
exactly the local bits of the set pins are added; or the first failing bit of the list decides the error. -/
theorem fanOutFrom_cases (c : Config) (m : VMask) (ks : List Nat) (L : PerSlot LMask) :
    (∃ L', fanOutFrom c m ks L = .ok L' ∧
      (∀ k ∈ ks, m.getLsbD k = true → pinFault c (pinOfBit k) = none) ∧
      ∀ s j, s < 4 → j < 40 →
        ((L'.get s).getLsbD j = true ↔
          (L.get s).getLsbD j = true ∨
            ∃ k ∈ ks, m.getLsbD k = true ∧ ∃ l, res c (pinOfBit k) = some (s, l) ∧ j = l - 1)) ∨
    (∃ e as k bs, fanOutFrom c m ks L = .error e ∧ ks = as ++ k :: bs ∧ m.getLsbD k = true ∧
      pinFault c (pinOfBit k) = some e ∧
      ∀ a ∈ as, m.getLsbD a = true → pinFault c (pinOfBit a) = none) := by
  induction ks generalizing L with
  | nil => exact .inl ⟨L, rfl, by simp, by simp⟩
  | cons k ks ih =>
    by_cases hk : m.getLsbD k = true
    · cases hr : res c (pinOfBit k) with
      | none =>
        refine .inr ⟨unmappedPin (pinOfBit k), [], k, ks, ?_, rfl, hk, ?_, by simp⟩
        · simp [fanOutFrom, hk, hr]
        · simp [pinFault, hr]
      | some sl =>
        obtain ⟨s, l⟩ := sl
        cases hb : c.isBound s with
        | false =>
          refine .inr ⟨unboundDevice (pinOfBit k) s, [], k, ks, ?_, rfl, hk, ?_, by simp⟩
          · simp [fanOutFrom, hk, hr, hb]
          · simp [pinFault, hr, hb]
        | true =>
          have hs := Config.isBound_lt hb
          have hf : pinFault c (pinOfBit k) = none := pinFault_eq_none.mpr ⟨s, l, hr, hb⟩
          have hstep : fanOutFrom c m (k :: ks) L = fanOutFrom c m ks (L.set s (L.get s ||| localBit l)) := by
            simp [fanOutFrom, hk, hr, hb]
          rw [hstep]
          rcases ih (L.set s (L.get s ||| localBit l)) with ⟨L', h1, h2, h3⟩ | ⟨e, as, k', bs, h1, h2, h3, h4, h5⟩
          · refine .inl ⟨L', h1, ?_, ?_⟩
            · intro a ha hm
              rcases List.mem_cons.mp ha with rfl | ha
              · exact hf
              · exact h2 a ha hm
            · intro t j ht hj
              rw [h3 t j ht hj, PerSlot.get_set _ _ hs ht]
              by_cases hts : t = s
              · subst hts
                simp only [if_true, BitVec.getLsbD_or, getLsbD_localBit, hj, decide_true, Bool.true_and,
                  Bool.or_eq_true, decide_eq_true_eq, List.exists_mem_cons_iff, hk, true_and, hr,
                  Option.some.injEq, Prod.mk.injEq]
                constructor
                · rintro ((h | h) | h)
                  · exact .inl h
                  · exact .inr (.inl ⟨l, rfl, h⟩)
                  · exact .inr (.inr h)
                · rintro (h | ⟨l', rfl, h⟩ | h)
                  · exact .inl (.inl h)
                  · exact .inl (.inr h)
                  · exact .inr h
              · simp only [if_neg hts, List.exists_mem_cons_iff, hk, true_and, hr, Option.some.injEq,
                  Prod.mk.injEq]
                constructor
                · rintro (h | h)
                  · exact .inl h
                  · exact .inr (.inr h)
                · rintro (h | ⟨l', ⟨h, _⟩, _⟩ | h)
                  · exact .inl h
                  · exact absurd h.symm hts
                  · exact .inr h
          · refine .inr ⟨e, k :: as, k', bs, h1, by simp [h2], h3, h4, ?_⟩
            intro a ha hm
            rcases List.mem_cons.mp ha with rfl | ha
            · exact hf
            · exact h5 a ha hm
    · have hstep : fanOutFrom c m (k :: ks) L = fanOutFrom c m ks L := by simp [fanOutFrom, hk]
      rw [hstep]
      rcases ih L with ⟨L', h1, h2, h3⟩ | ⟨e, as, k', bs, h1, h2, h3, h4, h5⟩
      · refine .inl ⟨L', h1, ?_, ?_⟩
        · intro a ha hm
          rcases List.mem_cons.mp ha with rfl | ha
          · exact absurd hm hk
          · exact h2 a ha hm
        · intro t j ht hj
          rw [h3 t j ht hj]
          simp [hk]
      · refine .inr ⟨e, k :: as, k', bs, h1, by simp [h2], h3, h4, ?_⟩
        intro a ha hm
        rcases List.mem_cons.mp ha with rfl | ha
        · exact absurd hm hk
        · exact h5 a ha hm

/-- Fan-out succeeds when every set pin maps to a bound slot, and sets exactly the local bits of the set pins. -/
theorem fanOut_of_usable {c : Config} {m : VMask}
    (h : ∀ k, k < c.numPins → m.getLsbD k = true → pinFault c (pinOfBit k) = none) :
    ∃ L, fanOut c m = .ok L ∧ ∀ s j, s < 4 → j < 40 →
      ((L.get s).getLsbD j = true ↔
        ∃ k, k < c.numPins ∧ m.getLsbD k = true ∧ ∃ l, res c (pinOfBit k) = some (s, l) ∧ j = l - 1) := by
  rcases fanOutFrom_cases c m (List.range c.numPins) (PerSlot.tabulate fun _ => 0#40) with
    ⟨L, h1, _, h3⟩ | ⟨e, as, k, bs, h1, h2, h3, h4, _⟩
  · refine ⟨L, h1, fun s j hs hj => ?_⟩
    rw [h3 s j hs hj]
    simp [hs]
  · exfalso
    have hk : k ∈ List.range c.numPins := by rw [h2]; simp
    rw [h k (List.mem_range.mp hk) h3] at h4
    exact absurd h4 (by simp)

/-- Fan-out succeeds only when every set pin maps to a bound slot. -/
theorem usable_of_fanOut {c : Config} {m : VMask} {L : PerSlot LMask} (h : fanOut c m = .ok L) :
    ∀ k, k < c.numPins → m.getLsbD k = true → pinFault c (pinOfBit k) = none := by
  rcases fanOutFrom_cases c m (List.range c.numPins) (PerSlot.tabulate fun _ => 0#40) with
    ⟨L', h1, h2, _⟩ | ⟨e, as, k, bs, h1, _⟩
  · exact fun k hk => h2 k (List.mem_range.mpr hk)
  · rw [fanOut, h1] at h
    exact absurd h (by simp)

/-- The mask of an unbound slot is empty. -/
theorem fanOut_unbound {c : Config} {m : VMask} {L : PerSlot LMask} (h : fanOut c m = .ok L) {s : Nat}
    (hs : s < 4) (hb : c.isBound s = false) : L.get s = 0#40 := by
  obtain ⟨L', h1, h2⟩ := fanOut_of_usable (usable_of_fanOut h)
  rw [h] at h1
  obtain rfl := Except.ok.inj h1
  apply BitVec.eq_of_getLsbD_eq
  intro j hj
  have := h2 s j hs hj
  rw [BitVec.getLsbD_zero]
  cases hbit : (L.get s).getLsbD j
  · rfl
  · obtain ⟨k, hk, hm, l, hr, _⟩ := this.mp hbit
    obtain ⟨s', l', hr', hb'⟩ := pinFault_eq_none.mp (usable_of_fanOut h k hk hm)
    rw [hr] at hr'
    obtain ⟨rfl, rfl⟩ := Prod.mk.inj (Option.some.inj hr')
    rw [hb] at hb'
    exact absurd hb' (by simp)

/-- The lowest set pin that is unmapped, or on an unbound slot, decides a failing fan-out. -/
theorem fanOut_error {c : Config} {m : VMask} {e : Raise} (h : fanOut c m = .error e) :
    ∃ k, k < c.numPins ∧ m.getLsbD k = true ∧ pinFault c (pinOfBit k) = some e ∧
      ∀ j, j < k → m.getLsbD j = true → pinFault c (pinOfBit j) = none := by
  rcases fanOutFrom_cases c m (List.range c.numPins) (PerSlot.tabulate fun _ => 0#40) with
    ⟨L', h1, _⟩ | ⟨e', as, k, bs, h1, h2, h3, h4, h5⟩
  · rw [fanOut, h1] at h
    exact absurd h (by simp)
  · rw [fanOut, h1] at h
    obtain rfl := Except.error.inj h
    have hk : k = as.length := by
      have := congrArg (fun l => l[as.length]?) h2
      simp only [List.getElem?_append_right (Nat.le_refl _), Nat.sub_self, List.getElem?_cons_zero] at this
      obtain ⟨h6, h7⟩ := List.getElem?_eq_some_iff.mp this
      simpa using h7.symm
    have hlen : as.length < c.numPins := by
      have := congrArg List.length h2
      simp only [List.length_range, List.length_append, List.length_cons] at this
      omega
    refine ⟨k, by omega, h3, h4, fun j hj hm => h5 j ?_ hm⟩
    have := congrArg (fun l => l[j]?) h2
    rw [hk] at hj
    have hjn : j < c.numPins := by omega
    simp only [List.getElem?_range hjn, List.getElem?_append_left hj] at this
    exact List.mem_of_getElem? this.symm

/-- Two entries of a pin table give the same image only if they are one (R65, R145). -/
theorem mem_registry_of_res {c : Config} {p : VPin} {s l : Nat} (h : res c p = some (s, l)) :
    ∃ e ∈ c.registry, e.vpin = p ∧ e.slot.toNat = s ∧ e.localPin.toNat = l := by
  unfold res at h
  cases hf : c.registry.find? fun e => e.vpin == p with
  | none => simp [hf] at h
  | some e =>
    simp only [hf, Option.map_some, Option.some.injEq, Prod.mk.injEq] at h
    exact ⟨e, List.mem_of_find?_eq_some hf, by simpa using List.find?_some hf, h.1, h.2⟩

end Machine

end Sys2Proof
end

