-- ==== Sys2Proof/Laws/State.lean ====
section
/-!
SUPPORT. The fields of the state after each named update: one lemma per field, so that no proof unfolds a record
update. A field an update changes only in some cases has its lemma in Laws/Ops.lean.
-/

namespace Sys2Proof.Machine

/-! ### respond -/

@[simp] theorem respond_cfg (b : List Byte) (s : State) :
    (respond b s).cfg = s.cfg := rfl
@[simp] theorem respond_mode (b : List Byte) (s : State) :
    (respond b s).mode = s.mode := rfl
@[simp] theorem respond_phase (b : List Byte) (s : State) :
    (respond b s).phase = s.phase := rfl
@[simp] theorem respond_curAddr (b : List Byte) (s : State) :
    (respond b s).curAddr = s.curAddr := rfl
@[simp] theorem respond_curDir (b : List Byte) (s : State) :
    (respond b s).curDir = s.curDir := rfl
@[simp] theorem respond_curValue (b : List Byte) (s : State) :
    (respond b s).curValue = s.curValue := rfl
@[simp] theorem respond_lastValid (b : List Byte) (s : State) :
    (respond b s).lastValid = s.lastValid := rfl
@[simp] theorem respond_lastAddr (b : List Byte) (s : State) :
    (respond b s).lastAddr = s.lastAddr := rfl
@[simp] theorem respond_lastValue (b : List Byte) (s : State) :
    (respond b s).lastValue = s.lastValue := rfl
@[simp] theorem respond_lastDir (b : List Byte) (s : State) :
    (respond b s).lastDir = s.lastDir := rfl
@[simp] theorem respond_txnCount (b : List Byte) (s : State) :
    (respond b s).txnCount = s.txnCount := rfl
@[simp] theorem respond_seq (b : List Byte) (s : State) :
    (respond b s).seq = s.seq := rfl
@[simp] theorem respond_lastStatus (b : List Byte) (s : State) :
    (respond b s).lastStatus = s.lastStatus := rfl
@[simp] theorem respond_frStatus (b : List Byte) (s : State) :
    (respond b s).frStatus = s.frStatus := rfl
@[simp] theorem respond_errPin (b : List Byte) (s : State) :
    (respond b s).errPin = s.errPin := rfl
@[simp] theorem respond_errSlot (b : List Byte) (s : State) :
    (respond b s).errSlot = s.errSlot := rfl
@[simp] theorem respond_errPrim (b : List Byte) (s : State) :
    (respond b s).errPrim = s.errPrim := rfl
@[simp] theorem respond_errSrc (b : List Byte) (s : State) :
    (respond b s).errSrc = s.errSrc := rfl
@[simp] theorem respond_busUnknown (b : List Byte) (s : State) :
    (respond b s).busUnknown = s.busUnknown := rfl
@[simp] theorem respond_rmStatus (b : List Byte) (s : State) :
    (respond b s).rmStatus = s.rmStatus := rfl
@[simp] theorem respond_rmErrPin (b : List Byte) (s : State) :
    (respond b s).rmErrPin = s.rmErrPin := rfl
@[simp] theorem respond_rmErrSlot (b : List Byte) (s : State) :
    (respond b s).rmErrSlot = s.rmErrSlot := rfl
@[simp] theorem respond_gateOwner (b : List Byte) (s : State) :
    (respond b s).gateOwner = s.gateOwner := rfl
@[simp] theorem respond_frRunning (b : List Byte) (s : State) :
    (respond b s).frRunning = s.frRunning := rfl
@[simp] theorem respond_frCancel (b : List Byte) (s : State) :
    (respond b s).frCancel = s.frCancel := rfl
@[simp] theorem respond_ports (b : List Byte) (s : State) :
    (respond b s).ports = s.ports := rfl
@[simp] theorem respond_mem (b : List Byte) (s : State) :
    (respond b s).mem = s.mem := rfl
@[simp] theorem respond_trace (b : List Byte) (s : State) :
    (respond b s).trace = s.trace := rfl
@[simp] theorem respond_frStage (b : List Byte) (s : State) :
    (respond b s).frStage = s.frStage := rfl
@[simp] theorem respond_cmds (b : List Byte) (s : State) :
    (respond b s).cmds = s.cmds.tail := rfl
@[simp] theorem respond_responses (b : List Byte) (s : State) :
    (respond b s).responses = s.responses ++ [b] := rfl
@[simp] theorem respond_env (b : List Byte) (s : State) :
    (respond b s).env = s.env := rfl

/-! ### recordError -/

@[simp] theorem recordError_cfg (a : Agent) (r : Raise) (s : State) :
    (recordError a r s).cfg = s.cfg := rfl
@[simp] theorem recordError_mode (a : Agent) (r : Raise) (s : State) :
    (recordError a r s).mode = s.mode := rfl
@[simp] theorem recordError_phase (a : Agent) (r : Raise) (s : State) :
    (recordError a r s).phase = s.phase := rfl
@[simp] theorem recordError_curAddr (a : Agent) (r : Raise) (s : State) :
    (recordError a r s).curAddr = s.curAddr := rfl
@[simp] theorem recordError_curDir (a : Agent) (r : Raise) (s : State) :
    (recordError a r s).curDir = s.curDir := rfl
@[simp] theorem recordError_curValue (a : Agent) (r : Raise) (s : State) :
    (recordError a r s).curValue = s.curValue := rfl
@[simp] theorem recordError_lastValid (a : Agent) (r : Raise) (s : State) :
    (recordError a r s).lastValid = s.lastValid := rfl
@[simp] theorem recordError_lastAddr (a : Agent) (r : Raise) (s : State) :
    (recordError a r s).lastAddr = s.lastAddr := rfl
@[simp] theorem recordError_lastValue (a : Agent) (r : Raise) (s : State) :
    (recordError a r s).lastValue = s.lastValue := rfl
@[simp] theorem recordError_lastDir (a : Agent) (r : Raise) (s : State) :
    (recordError a r s).lastDir = s.lastDir := rfl
@[simp] theorem recordError_txnCount (a : Agent) (r : Raise) (s : State) :
    (recordError a r s).txnCount = s.txnCount := rfl
@[simp] theorem recordError_seq (a : Agent) (r : Raise) (s : State) :
    (recordError a r s).seq = s.seq := rfl
@[simp] theorem recordError_lastStatus (a : Agent) (r : Raise) (s : State) :
    (recordError a r s).lastStatus = s.lastStatus := rfl
@[simp] theorem recordError_frStatus (a : Agent) (r : Raise) (s : State) :
    (recordError a r s).frStatus = s.frStatus := rfl
@[simp] theorem recordError_errPin (a : Agent) (r : Raise) (s : State) :
    (recordError a r s).errPin = r.pin := rfl
@[simp] theorem recordError_errSlot (a : Agent) (r : Raise) (s : State) :
    (recordError a r s).errSlot = r.slot := rfl
@[simp] theorem recordError_errPrim (a : Agent) (r : Raise) (s : State) :
    (recordError a r s).errPrim = r.prim := rfl
@[simp] theorem recordError_errSrc (a : Agent) (r : Raise) (s : State) :
    (recordError a r s).errSrc = a.source := rfl
@[simp] theorem recordError_busUnknown (a : Agent) (r : Raise) (s : State) :
    (recordError a r s).busUnknown = (s.busUnknown || decide (r.status = .transportError)) := rfl
@[simp] theorem recordError_rmStatus (a : Agent) (r : Raise) (s : State) :
    (recordError a r s).rmStatus = s.rmStatus := rfl
@[simp] theorem recordError_rmErrPin (a : Agent) (r : Raise) (s : State) :
    (recordError a r s).rmErrPin = s.rmErrPin := rfl
@[simp] theorem recordError_rmErrSlot (a : Agent) (r : Raise) (s : State) :
    (recordError a r s).rmErrSlot = s.rmErrSlot := rfl
@[simp] theorem recordError_gateOwner (a : Agent) (r : Raise) (s : State) :
    (recordError a r s).gateOwner = s.gateOwner := rfl
@[simp] theorem recordError_frRunning (a : Agent) (r : Raise) (s : State) :
    (recordError a r s).frRunning = s.frRunning := rfl
@[simp] theorem recordError_frCancel (a : Agent) (r : Raise) (s : State) :
    (recordError a r s).frCancel = s.frCancel := rfl
@[simp] theorem recordError_ports (a : Agent) (r : Raise) (s : State) :
    (recordError a r s).ports = s.ports := rfl
@[simp] theorem recordError_mem (a : Agent) (r : Raise) (s : State) :
    (recordError a r s).mem = s.mem := rfl
@[simp] theorem recordError_trace (a : Agent) (r : Raise) (s : State) :
    (recordError a r s).trace = s.trace := rfl
@[simp] theorem recordError_frStage (a : Agent) (r : Raise) (s : State) :
    (recordError a r s).frStage = s.frStage := rfl
@[simp] theorem recordError_cmds (a : Agent) (r : Raise) (s : State) :
    (recordError a r s).cmds = s.cmds := rfl
@[simp] theorem recordError_responses (a : Agent) (r : Raise) (s : State) :
    (recordError a r s).responses = s.responses := rfl
@[simp] theorem recordError_env (a : Agent) (r : Raise) (s : State) :
    (recordError a r s).env = s.env := rfl

/-! ### afterPrim -/

@[simp] theorem afterPrim_cfg (k : Nat) (p : Prim) (r : PrimResult) (d : Port) (e : Env) (s : State) :
    (afterPrim k p r d e s).cfg = s.cfg := rfl
@[simp] theorem afterPrim_mode (k : Nat) (p : Prim) (r : PrimResult) (d : Port) (e : Env) (s : State) :
    (afterPrim k p r d e s).mode = s.mode := rfl
@[simp] theorem afterPrim_phase (k : Nat) (p : Prim) (r : PrimResult) (d : Port) (e : Env) (s : State) :
    (afterPrim k p r d e s).phase = s.phase := rfl
@[simp] theorem afterPrim_curAddr (k : Nat) (p : Prim) (r : PrimResult) (d : Port) (e : Env) (s : State) :
    (afterPrim k p r d e s).curAddr = s.curAddr := rfl
@[simp] theorem afterPrim_curDir (k : Nat) (p : Prim) (r : PrimResult) (d : Port) (e : Env) (s : State) :
    (afterPrim k p r d e s).curDir = s.curDir := rfl
@[simp] theorem afterPrim_curValue (k : Nat) (p : Prim) (r : PrimResult) (d : Port) (e : Env) (s : State) :
    (afterPrim k p r d e s).curValue = s.curValue := rfl
@[simp] theorem afterPrim_lastValid (k : Nat) (p : Prim) (r : PrimResult) (d : Port) (e : Env) (s : State) :
    (afterPrim k p r d e s).lastValid = s.lastValid := rfl
@[simp] theorem afterPrim_lastAddr (k : Nat) (p : Prim) (r : PrimResult) (d : Port) (e : Env) (s : State) :
    (afterPrim k p r d e s).lastAddr = s.lastAddr := rfl
@[simp] theorem afterPrim_lastValue (k : Nat) (p : Prim) (r : PrimResult) (d : Port) (e : Env) (s : State) :
    (afterPrim k p r d e s).lastValue = s.lastValue := rfl
@[simp] theorem afterPrim_lastDir (k : Nat) (p : Prim) (r : PrimResult) (d : Port) (e : Env) (s : State) :
    (afterPrim k p r d e s).lastDir = s.lastDir := rfl
@[simp] theorem afterPrim_txnCount (k : Nat) (p : Prim) (r : PrimResult) (d : Port) (e : Env) (s : State) :
    (afterPrim k p r d e s).txnCount = s.txnCount := rfl
@[simp] theorem afterPrim_seq (k : Nat) (p : Prim) (r : PrimResult) (d : Port) (e : Env) (s : State) :
    (afterPrim k p r d e s).seq = s.seq := rfl
@[simp] theorem afterPrim_lastStatus (k : Nat) (p : Prim) (r : PrimResult) (d : Port) (e : Env) (s : State) :
    (afterPrim k p r d e s).lastStatus = s.lastStatus := rfl
@[simp] theorem afterPrim_frStatus (k : Nat) (p : Prim) (r : PrimResult) (d : Port) (e : Env) (s : State) :
    (afterPrim k p r d e s).frStatus = s.frStatus := rfl
@[simp] theorem afterPrim_errPin (k : Nat) (p : Prim) (r : PrimResult) (d : Port) (e : Env) (s : State) :
    (afterPrim k p r d e s).errPin = s.errPin := rfl
@[simp] theorem afterPrim_errSlot (k : Nat) (p : Prim) (r : PrimResult) (d : Port) (e : Env) (s : State) :
    (afterPrim k p r d e s).errSlot = s.errSlot := rfl
@[simp] theorem afterPrim_errPrim (k : Nat) (p : Prim) (r : PrimResult) (d : Port) (e : Env) (s : State) :
    (afterPrim k p r d e s).errPrim = s.errPrim := rfl
@[simp] theorem afterPrim_errSrc (k : Nat) (p : Prim) (r : PrimResult) (d : Port) (e : Env) (s : State) :
    (afterPrim k p r d e s).errSrc = s.errSrc := rfl
@[simp] theorem afterPrim_busUnknown (k : Nat) (p : Prim) (r : PrimResult) (d : Port) (e : Env) (s : State) :
    (afterPrim k p r d e s).busUnknown = s.busUnknown := rfl
@[simp] theorem afterPrim_rmStatus (k : Nat) (p : Prim) (r : PrimResult) (d : Port) (e : Env) (s : State) :
    (afterPrim k p r d e s).rmStatus = s.rmStatus := rfl
@[simp] theorem afterPrim_rmErrPin (k : Nat) (p : Prim) (r : PrimResult) (d : Port) (e : Env) (s : State) :
    (afterPrim k p r d e s).rmErrPin = s.rmErrPin := rfl
@[simp] theorem afterPrim_rmErrSlot (k : Nat) (p : Prim) (r : PrimResult) (d : Port) (e : Env) (s : State) :
    (afterPrim k p r d e s).rmErrSlot = s.rmErrSlot := rfl
@[simp] theorem afterPrim_gateOwner (k : Nat) (p : Prim) (r : PrimResult) (d : Port) (e : Env) (s : State) :
    (afterPrim k p r d e s).gateOwner = s.gateOwner := rfl
@[simp] theorem afterPrim_frRunning (k : Nat) (p : Prim) (r : PrimResult) (d : Port) (e : Env) (s : State) :
    (afterPrim k p r d e s).frRunning = s.frRunning := rfl
@[simp] theorem afterPrim_frCancel (k : Nat) (p : Prim) (r : PrimResult) (d : Port) (e : Env) (s : State) :
    (afterPrim k p r d e s).frCancel = s.frCancel := rfl
@[simp] theorem afterPrim_ports (k : Nat) (p : Prim) (r : PrimResult) (d : Port) (e : Env) (s : State) :
    (afterPrim k p r d e s).ports = s.ports.set k d := rfl
@[simp] theorem afterPrim_mem (k : Nat) (p : Prim) (r : PrimResult) (d : Port) (e : Env) (s : State) :
    (afterPrim k p r d e s).mem = s.mem := rfl
@[simp] theorem afterPrim_trace (k : Nat) (p : Prim) (r : PrimResult) (d : Port) (e : Env) (s : State) :
    (afterPrim k p r d e s).trace = s.trace ++ [.dev k p r] := rfl
@[simp] theorem afterPrim_frStage (k : Nat) (p : Prim) (r : PrimResult) (d : Port) (e : Env) (s : State) :
    (afterPrim k p r d e s).frStage = s.frStage := rfl
@[simp] theorem afterPrim_cmds (k : Nat) (p : Prim) (r : PrimResult) (d : Port) (e : Env) (s : State) :
    (afterPrim k p r d e s).cmds = s.cmds := rfl
@[simp] theorem afterPrim_responses (k : Nat) (p : Prim) (r : PrimResult) (d : Port) (e : Env) (s : State) :
    (afterPrim k p r d e s).responses = s.responses := rfl
@[simp] theorem afterPrim_env (k : Nat) (p : Prim) (r : PrimResult) (d : Port) (e : Env) (s : State) :
    (afterPrim k p r d e s).env = e := rfl

/-! ### memWrite -/

@[simp] theorem memWrite_cfg (a : Nat) (v : Byte) (s : State) :
    (memWrite a v s).cfg = s.cfg := rfl
@[simp] theorem memWrite_mode (a : Nat) (v : Byte) (s : State) :
    (memWrite a v s).mode = s.mode := rfl
@[simp] theorem memWrite_phase (a : Nat) (v : Byte) (s : State) :
    (memWrite a v s).phase = s.phase := rfl
@[simp] theorem memWrite_curAddr (a : Nat) (v : Byte) (s : State) :
    (memWrite a v s).curAddr = s.curAddr := rfl
@[simp] theorem memWrite_curDir (a : Nat) (v : Byte) (s : State) :
    (memWrite a v s).curDir = s.curDir := rfl
@[simp] theorem memWrite_curValue (a : Nat) (v : Byte) (s : State) :
    (memWrite a v s).curValue = s.curValue := rfl
@[simp] theorem memWrite_lastValid (a : Nat) (v : Byte) (s : State) :
    (memWrite a v s).lastValid = s.lastValid := rfl
@[simp] theorem memWrite_lastAddr (a : Nat) (v : Byte) (s : State) :
    (memWrite a v s).lastAddr = s.lastAddr := rfl
@[simp] theorem memWrite_lastValue (a : Nat) (v : Byte) (s : State) :
    (memWrite a v s).lastValue = s.lastValue := rfl
@[simp] theorem memWrite_lastDir (a : Nat) (v : Byte) (s : State) :
    (memWrite a v s).lastDir = s.lastDir := rfl
@[simp] theorem memWrite_txnCount (a : Nat) (v : Byte) (s : State) :
    (memWrite a v s).txnCount = s.txnCount := rfl
@[simp] theorem memWrite_seq (a : Nat) (v : Byte) (s : State) :
    (memWrite a v s).seq = s.seq := rfl
@[simp] theorem memWrite_lastStatus (a : Nat) (v : Byte) (s : State) :
    (memWrite a v s).lastStatus = s.lastStatus := rfl
@[simp] theorem memWrite_frStatus (a : Nat) (v : Byte) (s : State) :
    (memWrite a v s).frStatus = s.frStatus := rfl
@[simp] theorem memWrite_errPin (a : Nat) (v : Byte) (s : State) :
    (memWrite a v s).errPin = s.errPin := rfl
@[simp] theorem memWrite_errSlot (a : Nat) (v : Byte) (s : State) :
    (memWrite a v s).errSlot = s.errSlot := rfl
@[simp] theorem memWrite_errPrim (a : Nat) (v : Byte) (s : State) :
    (memWrite a v s).errPrim = s.errPrim := rfl
@[simp] theorem memWrite_errSrc (a : Nat) (v : Byte) (s : State) :
    (memWrite a v s).errSrc = s.errSrc := rfl
@[simp] theorem memWrite_busUnknown (a : Nat) (v : Byte) (s : State) :
    (memWrite a v s).busUnknown = s.busUnknown := rfl
@[simp] theorem memWrite_rmStatus (a : Nat) (v : Byte) (s : State) :
    (memWrite a v s).rmStatus = s.rmStatus := rfl
@[simp] theorem memWrite_rmErrPin (a : Nat) (v : Byte) (s : State) :
    (memWrite a v s).rmErrPin = s.rmErrPin := rfl
@[simp] theorem memWrite_rmErrSlot (a : Nat) (v : Byte) (s : State) :
    (memWrite a v s).rmErrSlot = s.rmErrSlot := rfl
@[simp] theorem memWrite_gateOwner (a : Nat) (v : Byte) (s : State) :
    (memWrite a v s).gateOwner = s.gateOwner := rfl
@[simp] theorem memWrite_frRunning (a : Nat) (v : Byte) (s : State) :
    (memWrite a v s).frRunning = s.frRunning := rfl
@[simp] theorem memWrite_frCancel (a : Nat) (v : Byte) (s : State) :
    (memWrite a v s).frCancel = s.frCancel := rfl
@[simp] theorem memWrite_ports (a : Nat) (v : Byte) (s : State) :
    (memWrite a v s).ports = s.ports := rfl
@[simp] theorem memWrite_mem (a : Nat) (v : Byte) (s : State) :
    (memWrite a v s).mem = s.mem.write a v := rfl
@[simp] theorem memWrite_trace (a : Nat) (v : Byte) (s : State) :
    (memWrite a v s).trace = s.trace ++ [.memWrite a v] := rfl
@[simp] theorem memWrite_frStage (a : Nat) (v : Byte) (s : State) :
    (memWrite a v s).frStage = s.frStage := rfl
@[simp] theorem memWrite_cmds (a : Nat) (v : Byte) (s : State) :
    (memWrite a v s).cmds = s.cmds := rfl
@[simp] theorem memWrite_responses (a : Nat) (v : Byte) (s : State) :
    (memWrite a v s).responses = s.responses := rfl
@[simp] theorem memWrite_env (a : Nat) (v : Byte) (s : State) :
    (memWrite a v s).env = s.env := rfl

/-! ### settleRecord -/

@[simp] theorem settleRecord_cfg (s : State) :
    (settleRecord s).cfg = s.cfg := rfl
@[simp] theorem settleRecord_mode (s : State) :
    (settleRecord s).mode = s.mode := rfl
@[simp] theorem settleRecord_phase (s : State) :
    (settleRecord s).phase = s.phase := rfl
@[simp] theorem settleRecord_curAddr (s : State) :
    (settleRecord s).curAddr = s.curAddr := rfl
@[simp] theorem settleRecord_curDir (s : State) :
    (settleRecord s).curDir = s.curDir := rfl
@[simp] theorem settleRecord_curValue (s : State) :
    (settleRecord s).curValue = s.curValue := rfl
@[simp] theorem settleRecord_lastValid (s : State) :
    (settleRecord s).lastValid = true := rfl
@[simp] theorem settleRecord_lastAddr (s : State) :
    (settleRecord s).lastAddr = s.curAddr := rfl
@[simp] theorem settleRecord_lastValue (s : State) :
    (settleRecord s).lastValue = s.curValue := rfl
@[simp] theorem settleRecord_lastDir (s : State) :
    (settleRecord s).lastDir = s.curDir := rfl
@[simp] theorem settleRecord_txnCount (s : State) :
    (settleRecord s).txnCount = s.txnCount + 1#32 := rfl
@[simp] theorem settleRecord_seq (s : State) :
    (settleRecord s).seq = s.seq := rfl
@[simp] theorem settleRecord_lastStatus (s : State) :
    (settleRecord s).lastStatus = s.lastStatus := rfl
@[simp] theorem settleRecord_frStatus (s : State) :
    (settleRecord s).frStatus = s.frStatus := rfl
@[simp] theorem settleRecord_errPin (s : State) :
    (settleRecord s).errPin = s.errPin := rfl
@[simp] theorem settleRecord_errSlot (s : State) :
    (settleRecord s).errSlot = s.errSlot := rfl
@[simp] theorem settleRecord_errPrim (s : State) :
    (settleRecord s).errPrim = s.errPrim := rfl
@[simp] theorem settleRecord_errSrc (s : State) :
    (settleRecord s).errSrc = s.errSrc := rfl
@[simp] theorem settleRecord_busUnknown (s : State) :
    (settleRecord s).busUnknown = s.busUnknown := rfl
@[simp] theorem settleRecord_rmStatus (s : State) :
    (settleRecord s).rmStatus = s.rmStatus := rfl
@[simp] theorem settleRecord_rmErrPin (s : State) :
    (settleRecord s).rmErrPin = s.rmErrPin := rfl
@[simp] theorem settleRecord_rmErrSlot (s : State) :
    (settleRecord s).rmErrSlot = s.rmErrSlot := rfl
@[simp] theorem settleRecord_gateOwner (s : State) :
    (settleRecord s).gateOwner = s.gateOwner := rfl
@[simp] theorem settleRecord_frRunning (s : State) :
    (settleRecord s).frRunning = s.frRunning := rfl
@[simp] theorem settleRecord_frCancel (s : State) :
    (settleRecord s).frCancel = s.frCancel := rfl
@[simp] theorem settleRecord_ports (s : State) :
    (settleRecord s).ports = s.ports := rfl
@[simp] theorem settleRecord_mem (s : State) :
    (settleRecord s).mem = s.mem := rfl
@[simp] theorem settleRecord_trace (s : State) :
    (settleRecord s).trace = s.trace ++ [.record s.curAddr s.curValue s.curDir] := rfl
@[simp] theorem settleRecord_frStage (s : State) :
    (settleRecord s).frStage = s.frStage := rfl
@[simp] theorem settleRecord_cmds (s : State) :
    (settleRecord s).cmds = s.cmds := rfl
@[simp] theorem settleRecord_responses (s : State) :
    (settleRecord s).responses = s.responses := rfl
@[simp] theorem settleRecord_env (s : State) :
    (settleRecord s).env = s.env := rfl

/-! ### workerStop -/

@[simp] theorem workerStop_cfg (s : State) :
    (workerStop s).cfg = s.cfg := rfl
@[simp] theorem workerStop_mode (s : State) :
    (workerStop s).mode = s.mode := rfl
@[simp] theorem workerStop_phase (s : State) :
    (workerStop s).phase = s.phase := rfl
@[simp] theorem workerStop_curAddr (s : State) :
    (workerStop s).curAddr = s.curAddr := rfl
@[simp] theorem workerStop_curDir (s : State) :
    (workerStop s).curDir = s.curDir := rfl
@[simp] theorem workerStop_curValue (s : State) :
    (workerStop s).curValue = s.curValue := rfl
@[simp] theorem workerStop_lastValid (s : State) :
    (workerStop s).lastValid = s.lastValid := rfl
@[simp] theorem workerStop_lastAddr (s : State) :
    (workerStop s).lastAddr = s.lastAddr := rfl
@[simp] theorem workerStop_lastValue (s : State) :
    (workerStop s).lastValue = s.lastValue := rfl
@[simp] theorem workerStop_lastDir (s : State) :
    (workerStop s).lastDir = s.lastDir := rfl
@[simp] theorem workerStop_txnCount (s : State) :
    (workerStop s).txnCount = s.txnCount := rfl
@[simp] theorem workerStop_seq (s : State) :
    (workerStop s).seq = s.seq := rfl
@[simp] theorem workerStop_lastStatus (s : State) :
    (workerStop s).lastStatus = s.lastStatus := rfl
@[simp] theorem workerStop_frStatus (s : State) :
    (workerStop s).frStatus = s.frStatus := rfl
@[simp] theorem workerStop_errPin (s : State) :
    (workerStop s).errPin = s.errPin := rfl
@[simp] theorem workerStop_errSlot (s : State) :
    (workerStop s).errSlot = s.errSlot := rfl
@[simp] theorem workerStop_errPrim (s : State) :
    (workerStop s).errPrim = s.errPrim := rfl
@[simp] theorem workerStop_errSrc (s : State) :
    (workerStop s).errSrc = s.errSrc := rfl
@[simp] theorem workerStop_busUnknown (s : State) :
    (workerStop s).busUnknown = s.busUnknown := rfl
@[simp] theorem workerStop_rmStatus (s : State) :
    (workerStop s).rmStatus = s.rmStatus := rfl
@[simp] theorem workerStop_rmErrPin (s : State) :
    (workerStop s).rmErrPin = s.rmErrPin := rfl
@[simp] theorem workerStop_rmErrSlot (s : State) :
    (workerStop s).rmErrSlot = s.rmErrSlot := rfl
@[simp] theorem workerStop_gateOwner (s : State) :
    (workerStop s).gateOwner = s.gateOwner := rfl
@[simp] theorem workerStop_frRunning (s : State) :
    (workerStop s).frRunning = false := rfl
@[simp] theorem workerStop_frCancel (s : State) :
    (workerStop s).frCancel = false := rfl
@[simp] theorem workerStop_ports (s : State) :
    (workerStop s).ports = s.ports := rfl
@[simp] theorem workerStop_mem (s : State) :
    (workerStop s).mem = s.mem := rfl
@[simp] theorem workerStop_trace (s : State) :
    (workerStop s).trace = s.trace := rfl
@[simp] theorem workerStop_frStage (s : State) :
    (workerStop s).frStage = .boundary := rfl
@[simp] theorem workerStop_cmds (s : State) :
    (workerStop s).cmds = s.cmds := rfl
@[simp] theorem workerStop_responses (s : State) :
    (workerStop s).responses = s.responses := rfl
@[simp] theorem workerStop_env (s : State) :
    (workerStop s).env = s.env := rfl

/-! ### setPhase -/

@[simp] theorem setPhase_cfg (p : Phase) (s : State) :
    (setPhase p s).cfg = s.cfg := by unfold setPhase; split <;> simp_all
@[simp] theorem setPhase_mode (p : Phase) (s : State) :
    (setPhase p s).mode = s.mode := by unfold setPhase; split <;> simp_all
@[simp] theorem setPhase_phase (p : Phase) (s : State) :
    (setPhase p s).phase = p := by unfold setPhase; split <;> simp_all
@[simp] theorem setPhase_curAddr (p : Phase) (s : State) :
    (setPhase p s).curAddr = s.curAddr := by unfold setPhase; split <;> simp_all
@[simp] theorem setPhase_curDir (p : Phase) (s : State) :
    (setPhase p s).curDir = s.curDir := by unfold setPhase; split <;> simp_all
@[simp] theorem setPhase_curValue (p : Phase) (s : State) :
    (setPhase p s).curValue = s.curValue := by unfold setPhase; split <;> simp_all
@[simp] theorem setPhase_lastValid (p : Phase) (s : State) :
    (setPhase p s).lastValid = s.lastValid := by unfold setPhase; split <;> simp_all
@[simp] theorem setPhase_lastAddr (p : Phase) (s : State) :
    (setPhase p s).lastAddr = s.lastAddr := by unfold setPhase; split <;> simp_all
@[simp] theorem setPhase_lastValue (p : Phase) (s : State) :
    (setPhase p s).lastValue = s.lastValue := by unfold setPhase; split <;> simp_all
@[simp] theorem setPhase_lastDir (p : Phase) (s : State) :
    (setPhase p s).lastDir = s.lastDir := by unfold setPhase; split <;> simp_all
@[simp] theorem setPhase_txnCount (p : Phase) (s : State) :
    (setPhase p s).txnCount = s.txnCount := by unfold setPhase; split <;> simp_all
@[simp] theorem setPhase_lastStatus (p : Phase) (s : State) :
    (setPhase p s).lastStatus = s.lastStatus := by unfold setPhase; split <;> simp_all
@[simp] theorem setPhase_frStatus (p : Phase) (s : State) :
    (setPhase p s).frStatus = s.frStatus := by unfold setPhase; split <;> simp_all
@[simp] theorem setPhase_errPin (p : Phase) (s : State) :
    (setPhase p s).errPin = s.errPin := by unfold setPhase; split <;> simp_all
@[simp] theorem setPhase_errSlot (p : Phase) (s : State) :
    (setPhase p s).errSlot = s.errSlot := by unfold setPhase; split <;> simp_all
@[simp] theorem setPhase_errPrim (p : Phase) (s : State) :
    (setPhase p s).errPrim = s.errPrim := by unfold setPhase; split <;> simp_all
@[simp] theorem setPhase_errSrc (p : Phase) (s : State) :
    (setPhase p s).errSrc = s.errSrc := by unfold setPhase; split <;> simp_all
@[simp] theorem setPhase_busUnknown (p : Phase) (s : State) :
    (setPhase p s).busUnknown = s.busUnknown := by unfold setPhase; split <;> simp_all
@[simp] theorem setPhase_rmStatus (p : Phase) (s : State) :
    (setPhase p s).rmStatus = s.rmStatus := by unfold setPhase; split <;> simp_all
@[simp] theorem setPhase_rmErrPin (p : Phase) (s : State) :
    (setPhase p s).rmErrPin = s.rmErrPin := by unfold setPhase; split <;> simp_all
@[simp] theorem setPhase_rmErrSlot (p : Phase) (s : State) :
    (setPhase p s).rmErrSlot = s.rmErrSlot := by unfold setPhase; split <;> simp_all
@[simp] theorem setPhase_gateOwner (p : Phase) (s : State) :
    (setPhase p s).gateOwner = s.gateOwner := by unfold setPhase; split <;> simp_all
@[simp] theorem setPhase_frRunning (p : Phase) (s : State) :
    (setPhase p s).frRunning = s.frRunning := by unfold setPhase; split <;> simp_all
@[simp] theorem setPhase_frCancel (p : Phase) (s : State) :
    (setPhase p s).frCancel = s.frCancel := by unfold setPhase; split <;> simp_all
@[simp] theorem setPhase_ports (p : Phase) (s : State) :
    (setPhase p s).ports = s.ports := by unfold setPhase; split <;> simp_all
@[simp] theorem setPhase_mem (p : Phase) (s : State) :
    (setPhase p s).mem = s.mem := by unfold setPhase; split <;> simp_all
@[simp] theorem setPhase_frStage (p : Phase) (s : State) :
    (setPhase p s).frStage = s.frStage := by unfold setPhase; split <;> simp_all
@[simp] theorem setPhase_cmds (p : Phase) (s : State) :
    (setPhase p s).cmds = s.cmds := by unfold setPhase; split <;> simp_all
@[simp] theorem setPhase_responses (p : Phase) (s : State) :
    (setPhase p s).responses = s.responses := by unfold setPhase; split <;> simp_all
@[simp] theorem setPhase_env (p : Phase) (s : State) :
    (setPhase p s).env = s.env := by unfold setPhase; split <;> simp_all

/-! ### releaseGate -/

@[simp] theorem releaseGate_cfg (a : Agent) (s : State) :
    (releaseGate a s).cfg = s.cfg := by unfold releaseGate; split <;> rfl
@[simp] theorem releaseGate_mode (a : Agent) (s : State) :
    (releaseGate a s).mode = s.mode := by unfold releaseGate; split <;> rfl
@[simp] theorem releaseGate_phase (a : Agent) (s : State) :
    (releaseGate a s).phase = s.phase := by unfold releaseGate; split <;> rfl
@[simp] theorem releaseGate_curAddr (a : Agent) (s : State) :
    (releaseGate a s).curAddr = s.curAddr := by unfold releaseGate; split <;> rfl
@[simp] theorem releaseGate_curDir (a : Agent) (s : State) :
    (releaseGate a s).curDir = s.curDir := by unfold releaseGate; split <;> rfl
@[simp] theorem releaseGate_curValue (a : Agent) (s : State) :
    (releaseGate a s).curValue = s.curValue := by unfold releaseGate; split <;> rfl
@[simp] theorem releaseGate_lastValid (a : Agent) (s : State) :
    (releaseGate a s).lastValid = s.lastValid := by unfold releaseGate; split <;> rfl
@[simp] theorem releaseGate_lastAddr (a : Agent) (s : State) :
    (releaseGate a s).lastAddr = s.lastAddr := by unfold releaseGate; split <;> rfl
@[simp] theorem releaseGate_lastValue (a : Agent) (s : State) :
    (releaseGate a s).lastValue = s.lastValue := by unfold releaseGate; split <;> rfl
@[simp] theorem releaseGate_lastDir (a : Agent) (s : State) :
    (releaseGate a s).lastDir = s.lastDir := by unfold releaseGate; split <;> rfl
@[simp] theorem releaseGate_txnCount (a : Agent) (s : State) :
    (releaseGate a s).txnCount = s.txnCount := by unfold releaseGate; split <;> rfl
@[simp] theorem releaseGate_seq (a : Agent) (s : State) :
    (releaseGate a s).seq = s.seq := by unfold releaseGate; split <;> rfl
@[simp] theorem releaseGate_lastStatus (a : Agent) (s : State) :
    (releaseGate a s).lastStatus = s.lastStatus := by unfold releaseGate; split <;> rfl
@[simp] theorem releaseGate_frStatus (a : Agent) (s : State) :
    (releaseGate a s).frStatus = s.frStatus := by unfold releaseGate; split <;> rfl
@[simp] theorem releaseGate_errPin (a : Agent) (s : State) :
    (releaseGate a s).errPin = s.errPin := by unfold releaseGate; split <;> rfl
@[simp] theorem releaseGate_errSlot (a : Agent) (s : State) :
    (releaseGate a s).errSlot = s.errSlot := by unfold releaseGate; split <;> rfl
@[simp] theorem releaseGate_errPrim (a : Agent) (s : State) :
    (releaseGate a s).errPrim = s.errPrim := by unfold releaseGate; split <;> rfl
@[simp] theorem releaseGate_errSrc (a : Agent) (s : State) :
    (releaseGate a s).errSrc = s.errSrc := by unfold releaseGate; split <;> rfl
@[simp] theorem releaseGate_busUnknown (a : Agent) (s : State) :
    (releaseGate a s).busUnknown = s.busUnknown := by unfold releaseGate; split <;> rfl
@[simp] theorem releaseGate_rmStatus (a : Agent) (s : State) :
    (releaseGate a s).rmStatus = s.rmStatus := by unfold releaseGate; split <;> rfl
@[simp] theorem releaseGate_rmErrPin (a : Agent) (s : State) :
    (releaseGate a s).rmErrPin = s.rmErrPin := by unfold releaseGate; split <;> rfl
@[simp] theorem releaseGate_rmErrSlot (a : Agent) (s : State) :
    (releaseGate a s).rmErrSlot = s.rmErrSlot := by unfold releaseGate; split <;> rfl
@[simp] theorem releaseGate_frRunning (a : Agent) (s : State) :
    (releaseGate a s).frRunning = s.frRunning := by unfold releaseGate; split <;> rfl
@[simp] theorem releaseGate_frCancel (a : Agent) (s : State) :
    (releaseGate a s).frCancel = s.frCancel := by unfold releaseGate; split <;> rfl
@[simp] theorem releaseGate_ports (a : Agent) (s : State) :
    (releaseGate a s).ports = s.ports := by unfold releaseGate; split <;> rfl
@[simp] theorem releaseGate_mem (a : Agent) (s : State) :
    (releaseGate a s).mem = s.mem := by unfold releaseGate; split <;> rfl
@[simp] theorem releaseGate_trace (a : Agent) (s : State) :
    (releaseGate a s).trace = s.trace := by unfold releaseGate; split <;> rfl
@[simp] theorem releaseGate_frStage (a : Agent) (s : State) :
    (releaseGate a s).frStage = s.frStage := by unfold releaseGate; split <;> rfl
@[simp] theorem releaseGate_cmds (a : Agent) (s : State) :
    (releaseGate a s).cmds = s.cmds := by unfold releaseGate; split <;> rfl
@[simp] theorem releaseGate_responses (a : Agent) (s : State) :
    (releaseGate a s).responses = s.responses := by unfold releaseGate; split <;> rfl
@[simp] theorem releaseGate_env (a : Agent) (s : State) :
    (releaseGate a s).env = s.env := by unfold releaseGate; split <;> rfl

/-! ### abandonTxn -/

@[simp] theorem abandonTxn_cfg (a : Agent) (s : State) :
    (abandonTxn a s).cfg = s.cfg := by unfold abandonTxn; split <;> simp
@[simp] theorem abandonTxn_mode (a : Agent) (s : State) :
    (abandonTxn a s).mode = s.mode := by unfold abandonTxn; split <;> simp
@[simp] theorem abandonTxn_curAddr (a : Agent) (s : State) :
    (abandonTxn a s).curAddr = s.curAddr := by unfold abandonTxn; split <;> simp
@[simp] theorem abandonTxn_curDir (a : Agent) (s : State) :
    (abandonTxn a s).curDir = s.curDir := by unfold abandonTxn; split <;> simp
@[simp] theorem abandonTxn_curValue (a : Agent) (s : State) :
    (abandonTxn a s).curValue = s.curValue := by unfold abandonTxn; split <;> simp
@[simp] theorem abandonTxn_lastValid (a : Agent) (s : State) :
    (abandonTxn a s).lastValid = s.lastValid := by unfold abandonTxn; split <;> simp
@[simp] theorem abandonTxn_lastAddr (a : Agent) (s : State) :
    (abandonTxn a s).lastAddr = s.lastAddr := by unfold abandonTxn; split <;> simp
@[simp] theorem abandonTxn_lastValue (a : Agent) (s : State) :
    (abandonTxn a s).lastValue = s.lastValue := by unfold abandonTxn; split <;> simp
@[simp] theorem abandonTxn_lastDir (a : Agent) (s : State) :
    (abandonTxn a s).lastDir = s.lastDir := by unfold abandonTxn; split <;> simp
@[simp] theorem abandonTxn_txnCount (a : Agent) (s : State) :
    (abandonTxn a s).txnCount = s.txnCount := by unfold abandonTxn; split <;> simp
@[simp] theorem abandonTxn_lastStatus (a : Agent) (s : State) :
    (abandonTxn a s).lastStatus = s.lastStatus := by unfold abandonTxn; split <;> simp
@[simp] theorem abandonTxn_frStatus (a : Agent) (s : State) :
    (abandonTxn a s).frStatus = s.frStatus := by unfold abandonTxn; split <;> simp
@[simp] theorem abandonTxn_errPin (a : Agent) (s : State) :
    (abandonTxn a s).errPin = s.errPin := by unfold abandonTxn; split <;> simp
@[simp] theorem abandonTxn_errSlot (a : Agent) (s : State) :
    (abandonTxn a s).errSlot = s.errSlot := by unfold abandonTxn; split <;> simp
@[simp] theorem abandonTxn_errPrim (a : Agent) (s : State) :
    (abandonTxn a s).errPrim = s.errPrim := by unfold abandonTxn; split <;> simp
@[simp] theorem abandonTxn_errSrc (a : Agent) (s : State) :
    (abandonTxn a s).errSrc = s.errSrc := by unfold abandonTxn; split <;> simp
@[simp] theorem abandonTxn_busUnknown (a : Agent) (s : State) :
    (abandonTxn a s).busUnknown = s.busUnknown := by unfold abandonTxn; split <;> simp
@[simp] theorem abandonTxn_rmStatus (a : Agent) (s : State) :
    (abandonTxn a s).rmStatus = s.rmStatus := by unfold abandonTxn; split <;> simp
@[simp] theorem abandonTxn_rmErrPin (a : Agent) (s : State) :
    (abandonTxn a s).rmErrPin = s.rmErrPin := by unfold abandonTxn; split <;> simp
@[simp] theorem abandonTxn_rmErrSlot (a : Agent) (s : State) :
    (abandonTxn a s).rmErrSlot = s.rmErrSlot := by unfold abandonTxn; split <;> simp
@[simp] theorem abandonTxn_frRunning (a : Agent) (s : State) :
    (abandonTxn a s).frRunning = s.frRunning := by unfold abandonTxn; split <;> simp
@[simp] theorem abandonTxn_frCancel (a : Agent) (s : State) :
    (abandonTxn a s).frCancel = s.frCancel := by unfold abandonTxn; split <;> simp
@[simp] theorem abandonTxn_ports (a : Agent) (s : State) :
    (abandonTxn a s).ports = s.ports := by unfold abandonTxn; split <;> simp
@[simp] theorem abandonTxn_mem (a : Agent) (s : State) :
    (abandonTxn a s).mem = s.mem := by unfold abandonTxn; split <;> simp
@[simp] theorem abandonTxn_frStage (a : Agent) (s : State) :
    (abandonTxn a s).frStage = s.frStage := by unfold abandonTxn; split <;> simp
@[simp] theorem abandonTxn_cmds (a : Agent) (s : State) :
    (abandonTxn a s).cmds = s.cmds := by unfold abandonTxn; split <;> simp
@[simp] theorem abandonTxn_responses (a : Agent) (s : State) :
    (abandonTxn a s).responses = s.responses := by unfold abandonTxn; split <;> simp
@[simp] theorem abandonTxn_env (a : Agent) (s : State) :
    (abandonTxn a s).env = s.env := by unfold abandonTxn; split <;> simp

/-! ### branchPhase -/

@[simp] theorem branchPhase_cfg (s : State) :
    (branchPhase s).cfg = s.cfg := by unfold branchPhase; split <;> simp
@[simp] theorem branchPhase_mode (s : State) :
    (branchPhase s).mode = s.mode := by unfold branchPhase; split <;> simp
@[simp] theorem branchPhase_curAddr (s : State) :
    (branchPhase s).curAddr = s.curAddr := by unfold branchPhase; split <;> simp
@[simp] theorem branchPhase_curDir (s : State) :
    (branchPhase s).curDir = s.curDir := by unfold branchPhase; split <;> simp
@[simp] theorem branchPhase_curValue (s : State) :
    (branchPhase s).curValue = s.curValue := by unfold branchPhase; split <;> simp
@[simp] theorem branchPhase_lastValid (s : State) :
    (branchPhase s).lastValid = s.lastValid := by unfold branchPhase; split <;> simp
@[simp] theorem branchPhase_lastAddr (s : State) :
    (branchPhase s).lastAddr = s.lastAddr := by unfold branchPhase; split <;> simp
@[simp] theorem branchPhase_lastValue (s : State) :
    (branchPhase s).lastValue = s.lastValue := by unfold branchPhase; split <;> simp
@[simp] theorem branchPhase_lastDir (s : State) :
    (branchPhase s).lastDir = s.lastDir := by unfold branchPhase; split <;> simp
@[simp] theorem branchPhase_txnCount (s : State) :
    (branchPhase s).txnCount = s.txnCount := by unfold branchPhase; split <;> simp
@[simp] theorem branchPhase_lastStatus (s : State) :
    (branchPhase s).lastStatus = s.lastStatus := by unfold branchPhase; split <;> simp
@[simp] theorem branchPhase_frStatus (s : State) :
    (branchPhase s).frStatus = s.frStatus := by unfold branchPhase; split <;> simp
@[simp] theorem branchPhase_errPin (s : State) :
    (branchPhase s).errPin = s.errPin := by unfold branchPhase; split <;> simp
@[simp] theorem branchPhase_errSlot (s : State) :
    (branchPhase s).errSlot = s.errSlot := by unfold branchPhase; split <;> simp
@[simp] theorem branchPhase_errPrim (s : State) :
    (branchPhase s).errPrim = s.errPrim := by unfold branchPhase; split <;> simp
@[simp] theorem branchPhase_errSrc (s : State) :
    (branchPhase s).errSrc = s.errSrc := by unfold branchPhase; split <;> simp
@[simp] theorem branchPhase_busUnknown (s : State) :
    (branchPhase s).busUnknown = s.busUnknown := by unfold branchPhase; split <;> simp
@[simp] theorem branchPhase_rmStatus (s : State) :
    (branchPhase s).rmStatus = s.rmStatus := by unfold branchPhase; split <;> simp
@[simp] theorem branchPhase_rmErrPin (s : State) :
    (branchPhase s).rmErrPin = s.rmErrPin := by unfold branchPhase; split <;> simp
@[simp] theorem branchPhase_rmErrSlot (s : State) :
    (branchPhase s).rmErrSlot = s.rmErrSlot := by unfold branchPhase; split <;> simp
@[simp] theorem branchPhase_gateOwner (s : State) :
    (branchPhase s).gateOwner = s.gateOwner := by unfold branchPhase; split <;> simp
@[simp] theorem branchPhase_frRunning (s : State) :
    (branchPhase s).frRunning = s.frRunning := by unfold branchPhase; split <;> simp
@[simp] theorem branchPhase_frCancel (s : State) :
    (branchPhase s).frCancel = s.frCancel := by unfold branchPhase; split <;> simp
@[simp] theorem branchPhase_ports (s : State) :
    (branchPhase s).ports = s.ports := by unfold branchPhase; split <;> simp
@[simp] theorem branchPhase_mem (s : State) :
    (branchPhase s).mem = s.mem := by unfold branchPhase; split <;> simp
@[simp] theorem branchPhase_frStage (s : State) :
    (branchPhase s).frStage = s.frStage := by unfold branchPhase; split <;> simp
@[simp] theorem branchPhase_cmds (s : State) :
    (branchPhase s).cmds = s.cmds := by unfold branchPhase; split <;> simp
@[simp] theorem branchPhase_responses (s : State) :
    (branchPhase s).responses = s.responses := by unfold branchPhase; split <;> simp
@[simp] theorem branchPhase_env (s : State) :
    (branchPhase s).env = s.env := by unfold branchPhase; split <;> simp

end Sys2Proof.Machine
end

