-- ==== Sys2Proof/Laws/Ops.lean ====
section
/-!
SUPPORT. What each shared operation can do, said once: raising and the gate, phase changes, device primitives, the
vector writes and reads, and what they come to when no primitive fails. Provers cite these lemmas instead of
unfolding the operations.
-/

namespace Sys2Proof.Machine

/-! ### Runs -/

/-- The state a run ends in. -/
def Run.state {α : Type} : Run α → State
  | .done _ s => s
  | .error _ s => s

@[simp] theorem Run.state_done {α : Type} (a : α) (s : State) : (Run.done a s).state = s := rfl

@[simp] theorem Run.state_error {α : Type} (r : Raise) (s : State) : (Run.error (α := α) r s).state = s := rfl

@[simp] theorem Run.andThen_done {α β : Type} (a : α) (s : State) (f : α → State → Run β) :
    (Run.done a s).andThen f = f a s := rfl

@[simp] theorem Run.andThen_error {α β : Type} (r : Raise) (s : State) (f : α → State → Run β) :
    (Run.error r s).andThen f = .error r s := rfl

theorem Run.andThen_eq_done {α β : Type} {r : Run α} {f : α → State → Run β} {b : β} {t : State}
    (h : r.andThen f = .done b t) : ∃ a s, r = .done a s ∧ f a s = .done b t := by
  cases r with
  | done a s => exact ⟨a, s, rfl, h⟩
  | error e s => simp at h

theorem Run.andThen_eq_error {α β : Type} {r : Run α} {f : α → State → Run β} {e : Raise} {t : State}
    (h : r.andThen f = .error e t) : r = .error e t ∨ ∃ a s, r = .done a s ∧ f a s = .error e t := by
  cases r with
  | done a s => exact .inr ⟨a, s, rfl, h⟩
  | error e' s =>
    simp only [Run.andThen_error, Run.error.injEq] at h
    exact .inl (by rw [h.1, h.2])

/-! ### Phases, gate, errors -/

@[simp] theorem setPhase_same (p : Phase) (s : State) (h : s.phase = p) : setPhase p s = s := by
  simp [setPhase, h]

/-- A phase change counts `SEQ` up by one and appends its event (R30, R201). -/
theorem setPhase_change (p : Phase) (s : State) (h : s.phase ≠ p) :
    setPhase p s = { s with phase := p, seq := s.seq + 1#32,
                            trace := s.trace ++ [.phase (s.seq + 1#32) s.phase p s.gateOwner] } := by
  simp [setPhase, h]

/-- An agent that does not hold the gate abandons nothing. -/
@[simp] theorem abandonTxn_other (a : Agent) (s : State) (h : s.gateOwner ≠ a.owner) : abandonTxn a s = s := by
  simp [abandonTxn, h]

/-- The agent that holds the gate leaves it free and the sequencer in `Idle` (R285). -/
theorem abandonTxn_owner (a : Agent) (s : State) (h : s.gateOwner = a.owner) :
    abandonTxn a s = { setPhase .idle s with gateOwner := .free } := by
  simp [abandonTxn, releaseGate, h]

/-! ### Device primitives -/

@[simp] theorem PinAssignment.value_never : PinAssignment.never.value = none := rfl
@[simp] theorem PinAssignment.value_lost : PinAssignment.lost.value = none := rfl
@[simp] theorem PinAssignment.value_pins (m : LMask) : (PinAssignment.pins m).value = some m := rfl
@[simp] theorem PinAssignment.reach_never : PinAssignment.never.reach = 0#40 := rfl
@[simp] theorem PinAssignment.reach_lost : PinAssignment.lost.reach = BitVec.allOnes 40 := rfl
@[simp] theorem PinAssignment.reach_pins (m : LMask) : (PinAssignment.pins m).reach = m := rfl

/-- The pins of a device whose tri-state setting is known that show the target's levels (R72). -/
theorem Port.targetPins_tri {p : Port} {t : LMask} (h : p.tri = some t) :
    p.targetPins = t &&& ~~~p.gnd.reach &&& ~~~p.sup.reach := by
  simp [Port.targetPins, h]

/-- Where no assignment has been issued, the tri-stated pins show the target's levels (R72, R213, R214). -/
theorem Port.targetPins_unassigned {p : Port} {t : LMask} (h : p.tri = some t) (hg : p.gnd = .never)
    (hs : p.sup = .never) : p.targetPins = t := by
  rw [Port.targetPins_tri h, hg, hs]
  simp only [PinAssignment.reach_never, BitVec.not_zero, BitVec.and_allOnes]

/-- What a primitive can do: it completes, or it raises `TransportError` and its field is unknown (R71, R73). -/
theorem issue_cases (k : Nat) (p : Prim) (s : State) :
    (∃ e, s.env.drawTransport = (false, e) ∧
      issue k p s = .done () (afterPrim k p .ok (p.apply (s.ports.get k)) e s)) ∨
    (∃ e, s.env.drawTransport = (true, e) ∧
      issue k p s = .error (transportError k p) (afterPrim k p .transportError (p.spoil (s.ports.get k)) e s)) := by
  unfold issue
  cases h : s.env.drawTransport with
  | mk b e => cases b <;> simp

/-- What a `read_input` can do (R72, R73). -/
theorem issueRead_cases (k : Nat) (s : State) :
    (∃ e i e', s.env.drawTransport = (false, e) ∧ e.drawInput = (i, e') ∧
      issueRead k s = .done ((s.ports.get k).input i)
        (afterPrim k .readInput (.levels ((s.ports.get k).input i)) (s.ports.get k) e' s)) ∨
    (∃ e, s.env.drawTransport = (true, e) ∧
      issueRead k s = .error (transportError k .readInput)
        (afterPrim k .readInput .transportError (s.ports.get k) e s)) := by
  unfold issueRead
  cases h : s.env.drawTransport with
  | mk b e =>
    cases b
    · cases h' : e.drawInput with
      | mk i e' => simp [h']
    · simp

/-- The state `t` comes from `s` by primitives on the listed slots: only ports, trace and environment differ, the
trace has grown by those slots' device events, and every other slot's port is as before. -/
structure DevRun (slots : List Nat) (s t : State) : Prop where
  frame : t = { s with ports := t.ports, trace := t.trace, env := t.env }
  events : ∃ evs, t.trace = s.trace ++ evs ∧ ∀ e ∈ evs, ∃ k ∈ slots, ∃ p r, e = .dev k p r
  others : ∀ k, k < 4 → k ∉ slots → t.ports.get k = s.ports.get k

theorem DevRun.refl (slots : List Nat) (s : State) : DevRun slots s s :=
  ⟨rfl, ⟨[], by simp⟩, fun _ _ _ => rfl⟩

theorem DevRun.trans {slots : List Nat} {s t u : State} (h : DevRun slots s t) (h' : DevRun slots t u) :
    DevRun slots s u := by
  obtain ⟨f1, ⟨e1, t1, a1⟩, o1⟩ := h
  obtain ⟨f2, ⟨e2, t2, a2⟩, o2⟩ := h'
  refine ⟨?_, ⟨e1 ++ e2, by rw [t2, t1, List.append_assoc], ?_⟩, fun k h4 hk => (o2 k h4 hk).trans (o1 k h4 hk)⟩
  · rw [f2, f1]
  · intro e he
    rcases List.mem_append.mp he with he | he
    · exact a1 e he
    · exact a2 e he

theorem DevRun.mono {slots slots' : List Nat} {s t : State} (h : DevRun slots s t) (hs : ∀ k ∈ slots, k ∈ slots') :
    DevRun slots' s t := by
  obtain ⟨f, ⟨e, t1, a⟩, o⟩ := h
  refine ⟨f, ⟨e, t1, fun x hx => ?_⟩, fun k h4 hk => o k h4 fun hm => hk (hs k hm)⟩
  obtain ⟨k, hk, r⟩ := a x hx
  exact ⟨k, hs k hk, r⟩

theorem afterPrim_devRun (k : Nat) (p : Prim) (r : PrimResult) (d : Port) (e : Env) (s : State) :
    DevRun [k] s (afterPrim k p r d e s) := by
  refine ⟨rfl, ⟨[.dev k p r], rfl, ?_⟩, fun j h4 hj => ?_⟩
  · intro x hx
    exact ⟨k, by simp, p, r, by simpa using hx⟩
  · exact PerSlot.get_set_other _ _ h4 (by simpa using hj)

theorem issue_devRun (k : Nat) (p : Prim) (s : State) : DevRun [k] s (issue k p s).state := by
  rcases issue_cases k p s with ⟨e, _, h⟩ | ⟨e, _, h⟩ <;> rw [h] <;> exact afterPrim_devRun ..

theorem issueRead_devRun (k : Nat) (s : State) : DevRun [k] s (issueRead k s).state := by
  rcases issueRead_cases k s with ⟨e, i, e', _, _, h⟩ | ⟨e, _, h⟩ <;> rw [h] <;> exact afterPrim_devRun ..

/-- Whatever a sequence of primitives comes to, it touches only its slots, the trace and the environment. -/
theorem issueAll_devRun (p : Nat → Prim) (ks : List Nat) (s : State) : DevRun ks s (issueAll p ks s).state := by
  induction ks generalizing s with
  | nil => exact DevRun.refl _ _
  | cons k ks ih =>
    have h1 := issue_devRun k (p k) s
    simp only [issueAll]
    cases hr : issue k (p k) s with
    | error e t =>
      rw [hr] at h1
      exact h1.mono (by simp)
    | done a t =>
      rw [hr] at h1
      exact (h1.mono (by simp)).trans ((ih t).mono fun j hj => by simp [hj])

/-- A sequence of `read_input`s touches only its slots' events, the trace and the environment. -/
theorem readAll_devRun (ks : List Nat) (I : PerSlot LMask) (s : State) : DevRun ks s (readAll ks I s).state := by
  induction ks generalizing s I with
  | nil => exact DevRun.refl _ _
  | cons k ks ih =>
    have h1 := issueRead_devRun k s
    simp only [readAll]
    cases hr : issueRead k s with
    | error e t =>
      rw [hr] at h1
      exact h1.mono (by simp)
    | done a t =>
      rw [hr] at h1
      exact (h1.mono (by simp)).trans ((ih _ t).mono fun j hj => by simp [hj])

/-- `read_input` changes no port (R71, R78). -/
theorem readAll_ports (ks : List Nat) (I : PerSlot LMask) (s : State) : (readAll ks I s).state.ports = s.ports := by
  induction ks generalizing s I with
  | nil => rfl
  | cons k ks ih =>
    simp only [readAll]
    rcases issueRead_cases k s with ⟨e, i, e', _, _, h⟩ | ⟨e, _, h⟩
    · rw [h, Run.andThen_done, ih]
      simp
    · rw [h]
      simp

/-- The only error a sequence of primitives raises is a slot's `TransportError` (R164). -/
theorem issueAll_error {p : Nat → Prim} {ks : List Nat} {s t : State} {e : Raise}
    (h : issueAll p ks s = .error e t) : ∃ k ∈ ks, e = transportError k (p k) := by
  induction ks generalizing s with
  | nil => simp [issueAll] at h
  | cons k ks ih =>
    simp only [issueAll] at h
    rcases Run.andThen_eq_error h with h | ⟨_, s', _, h⟩
    · rcases issue_cases k (p k) s with ⟨_, _, h'⟩ | ⟨_, _, h'⟩ <;> rw [h'] at h
      · simp at h
      · exact ⟨k, by simp, by cases h; rfl⟩
    · obtain ⟨j, hj, rfl⟩ := ih h
      exact ⟨j, by simp [hj], rfl⟩

theorem readAll_error {ks : List Nat} {I : PerSlot LMask} {s t : State} {e : Raise}
    (h : readAll ks I s = .error e t) : ∃ k ∈ ks, e = transportError k .readInput := by
  induction ks generalizing s I with
  | nil => simp [readAll] at h
  | cons k ks ih =>
    simp only [readAll] at h
    rcases Run.andThen_eq_error h with h | ⟨_, s', _, h⟩
    · rcases issueRead_cases k s with ⟨_, _, _, _, _, h'⟩ | ⟨_, _, h'⟩ <;> rw [h'] at h
      · simp at h
      · exact ⟨k, by simp, by cases h; rfl⟩
    · obtain ⟨j, hj, rfl⟩ := ih h
      exact ⟨j, by simp [hj], rfl⟩

/-! ### When no primitive fails -/

theorem drawTransport_quiet {e : Env} {rest : List Bool} (h : e.transport = false :: rest) :
    e.drawTransport = (false, { e with transport := rest, draws := e.draws + 1 }) := by
  simp [Env.drawTransport, h]

theorem drawTransport_fails {e : Env} {rest : List Bool} (h : e.transport = true :: rest) :
    e.drawTransport = (true, { e with transport := rest, draws := e.draws + 1 }) := by
  simp [Env.drawTransport, h]

theorem drawInput_scripted {e : Env} {i : InputSample} {rest : List InputSample} (h : e.inputs = i :: rest) :
    e.drawInput = (i, { e with inputs := rest, draws := e.draws + 1 }) := by
  simp [Env.drawInput, h]

/-- Writing a list of distinct slots one after another writes each of them. -/
theorem foldl_set_get (f : Nat → Port) (ks : List Nat) (v : PerSlot Port) {j : Nat} (hj : j < 4)
    (h4 : ∀ k ∈ ks, k < 4) :
    (ks.foldl (fun w k => w.set k (f k)) v).get j = if j ∈ ks then f j else v.get j := by
  induction ks generalizing v with
  | nil => simp
  | cons k ks ih =>
    simp only [List.foldl_cons]
    rw [ih _ fun x hx => h4 x (by simp [hx]), PerSlot.get_set _ _ (h4 k (by simp)) hj]
    by_cases h1 : j ∈ ks <;> by_cases h2 : j = k <;> simp_all

/-- A sequence of primitives on distinct slots, none of which fails: each slot's port has the primitive's effect,
the trace has one event per slot in order, the environment's answers are used up (R71, R74, R164). -/
theorem issueAll_quiet (p : Nat → Prim) (ks : List Nat) (s : State) (rest : List Bool) (hn : ks.Nodup)
    (h4 : ∀ k ∈ ks, k < 4) (hq : s.env.transport = List.replicate ks.length false ++ rest) :
    issueAll p ks s = .done ()
      { s with ports := PerSlot.tabulate fun k =>
                 if k ∈ ks then (p k).apply (s.ports.get k) else s.ports.get k,
               trace := s.trace ++ ks.map (fun k => .dev k (p k) .ok),
               env := { s.env with transport := rest, draws := s.env.draws + ks.length } } := by
  induction ks generalizing s with
  | nil =>
    simp only [List.length_nil, List.replicate_zero, List.nil_append] at hq
    have hp : (PerSlot.tabulate fun k => if k ∈ ([] : List Nat) then (p k).apply (s.ports.get k) else s.ports.get k) =
        s.ports := PerSlot.ext_get fun k hk => by simp [hk]
    simp only [issueAll, hp, List.map_nil, List.append_nil, List.length_nil, Nat.add_zero, ← hq]
  | cons k ks ih =>
    have hk4 : k < 4 := h4 k (by simp)
    have hkn : k ∉ ks := (List.nodup_cons.mp hn).1
    rw [List.length_cons, List.replicate_succ, List.cons_append] at hq
    have hi : issue k (p k) s = .done () (afterPrim k (p k) .ok ((p k).apply (s.ports.get k))
        { s.env with transport := List.replicate ks.length false ++ rest, draws := s.env.draws + 1 } s) := by
      simp [issue, drawTransport_quiet hq]
    simp only [issueAll, hi, Run.andThen_done]
    rw [ih _ (List.nodup_cons.mp hn).2 (fun x hx => h4 x (by simp [hx])) (by simp)]
    congr 1
    simp only [afterPrim, State.mk.injEq, true_and, List.map_cons, List.append_assoc, List.cons_append,
      List.nil_append, List.length_cons, Env.mk.injEq]
    refine ⟨PerSlot.ext_get fun j hj => ?_, by omega⟩
    simp only [PerSlot.get_tabulate _ hj, PerSlot.get_set _ _ hk4 hj, List.mem_cons]
    by_cases h1 : j = k
    · subst h1; simp [hkn]
    · simp [h1]

/-- A sequence of `read_input`s on distinct slots, none of which fails, the environment answering `f k` for slot `k`
(R72, R167). -/
theorem readAll_quiet (f : Nat → InputSample) (ks : List Nat) (I : PerSlot LMask) (s : State) (rest : List Bool)
    (restI : List InputSample) (hn : ks.Nodup) (h4 : ∀ k ∈ ks, k < 4)
    (hq : s.env.transport = List.replicate ks.length false ++ rest) (hi : s.env.inputs = ks.map f ++ restI) :
    readAll ks I s = .done
      (PerSlot.tabulate fun k => if k ∈ ks then (s.ports.get k).input (f k) else I.get k)
      { s with trace := s.trace ++ ks.map (fun k => .dev k .readInput (.levels ((s.ports.get k).input (f k)))),
               env := { s.env with transport := rest, inputs := restI, draws := s.env.draws + 2 * ks.length } } := by
  induction ks generalizing s I with
  | nil =>
    simp only [List.length_nil, List.replicate_zero, List.nil_append, List.map_nil] at hq hi
    have hp : (PerSlot.tabulate fun k => if k ∈ ([] : List Nat) then (s.ports.get k).input (f k) else I.get k) = I :=
      PerSlot.ext_get fun k hk => by simp [hk]
    simp only [readAll, hp, List.map_nil, List.append_nil, List.length_nil, Nat.mul_zero, Nat.add_zero, ← hq, ← hi]
  | cons k ks ih =>
    have hk4 : k < 4 := h4 k (by simp)
    have hkn : k ∉ ks := (List.nodup_cons.mp hn).1
    rw [List.length_cons, List.replicate_succ, List.cons_append] at hq
    rw [List.map_cons, List.cons_append] at hi
    have hr : issueRead k s = .done ((s.ports.get k).input (f k))
        (afterPrim k .readInput (.levels ((s.ports.get k).input (f k))) (s.ports.get k)
          { s.env with transport := List.replicate ks.length false ++ rest, inputs := ks.map f ++ restI,
                       draws := s.env.draws + 1 + 1 } s) := by
      simp [issueRead, drawTransport_quiet hq, Env.drawInput, hi]
    simp only [readAll, hr, Run.andThen_done]
    rw [ih _ _ (List.nodup_cons.mp hn).2 (fun x hx => h4 x (by simp [hx])) (by simp) (by simp)]
    simp only [afterPrim, PerSlot.set_get_self, Run.done.injEq, State.mk.injEq, true_and, List.map_cons,
      List.append_assoc, List.cons_append, List.nil_append, List.length_cons, Env.mk.injEq]
    refine ⟨PerSlot.ext_get fun j hj => ?_, by omega⟩
    simp only [PerSlot.get_tabulate _ hj, PerSlot.get_set _ _ hk4 hj, List.mem_cons]
    by_cases h1 : j = k
    · subst h1; simp [hkn]
    · simp [h1]

/-! ### When a primitive fails -/

/-- The state `t` in which a run of primitives from `s` stopped: `n` of them completed, then slot `k`'s primitive `p`
failed; only ports, trace and environment differ, the trace ends with the failure, and the transport answers left are
`rest` (R73, R164). -/
structure StoppedAt (s t : State) (n k : Nat) (p : Prim) (rest : List Bool) : Prop where
  frame : t = { s with ports := t.ports, trace := t.trace, env := t.env }
  left : t.env.transport = rest
  events : ∃ evs, t.trace = s.trace ++ evs ++ [.dev k p .transportError] ∧ evs.length = n ∧
    ∀ e ∈ evs, ∃ j q r, e = .dev j q r ∧ r ≠ .transportError

/-- Running one more completed primitive ahead of a run that stopped. -/
theorem StoppedAt.cons {s u t : State} {n j k : Nat} {p q : Prim} {r : PrimResult} {d : Port} {e : Env}
    {rest : List Bool} (hu : u = afterPrim j q r d e s) (hr : r ≠ .transportError) (h : StoppedAt u t n k p rest) :
    StoppedAt s t (n + 1) k p rest := by
  obtain ⟨f, l, evs, h1, h2, h3⟩ := h
  subst hu
  refine ⟨by rw [f]; rfl, l, .dev j q r :: evs, by rw [h1]; simp [afterPrim], by simp [h2], fun x hx => ?_⟩
  rcases List.mem_cons.mp hx with rfl | hx
  · exact ⟨j, q, r, rfl, hr⟩
  · exact h3 x hx

/-- Drawing a `read_input` answer uses up no transport answer. -/
@[simp] theorem Env.drawInput_transport (e : Env) : e.drawInput.2.transport = e.transport := by
  unfold Env.drawInput
  split <;> rfl

/-- A sequence of primitives whose first failure is slot `k`'s stops there (R164). -/
theorem issueAll_stops (p : Nat → Prim) (before after : List Nat) (k : Nat) (rest : List Bool) (s : State)
    (h : s.env.transport = List.replicate before.length false ++ true :: rest) :
    ∃ t, issueAll p (before ++ k :: after) s = .error (transportError k (p k)) t ∧
      StoppedAt s t before.length k (p k) rest := by
  induction before generalizing s with
  | nil =>
    exact ⟨afterPrim k (p k) .transportError ((p k).spoil (s.ports.get k))
      { s.env with transport := rest, draws := s.env.draws + 1 } s,
      by simp only [List.nil_append, issueAll, issue, drawTransport_fails h, Run.andThen_error], rfl, rfl, [],
      by simp [afterPrim]⟩
  | cons b bs ih =>
    rw [List.length_cons, List.replicate_succ, List.cons_append] at h
    simp only [List.cons_append, issueAll, issue, drawTransport_quiet h, Run.andThen_done]
    obtain ⟨t, h1, h2⟩ := ih (afterPrim b (p b) .ok ((p b).apply (s.ports.get b))
      { s.env with transport := List.replicate bs.length false ++ true :: rest, draws := s.env.draws + 1 } s) rfl
    exact ⟨t, h1, h2.cons rfl (by simp)⟩

/-- A sequence of `read_input`s whose first failure is slot `k`'s stops there (R167). -/
theorem readAll_stops (before after : List Nat) (k : Nat) (rest : List Bool) (I : PerSlot LMask) (s : State)
    (h : s.env.transport = List.replicate before.length false ++ true :: rest) :
    ∃ t, readAll (before ++ k :: after) I s = .error (transportError k .readInput) t ∧
      StoppedAt s t before.length k .readInput rest := by
  induction before generalizing s I with
  | nil =>
    exact ⟨afterPrim k .readInput .transportError (s.ports.get k)
      { s.env with transport := rest, draws := s.env.draws + 1 } s,
      by simp only [List.nil_append, readAll, issueRead, drawTransport_fails h, Run.andThen_error], rfl, rfl, [],
      by simp [afterPrim]⟩
  | cons b bs ih =>
    rw [List.length_cons, List.replicate_succ, List.cons_append] at h
    rcases issueRead_cases b s with ⟨e, i, e', hd, hi, hr⟩ | ⟨e, hd, _⟩
    · simp only [List.cons_append, readAll, hr, Run.andThen_done]
      have he : e'.transport = e.transport := by rw [← Env.drawInput_transport e, hi]
      rw [drawTransport_quiet h, Prod.mk.injEq] at hd
      obtain ⟨t, h1, h2⟩ := ih (I.set b ((s.ports.get b).input i))
        (afterPrim b .readInput (.levels ((s.ports.get b).input i)) (s.ports.get b) e' s) (by rw [← hd.2] at he; exact he)
      exact ⟨t, h1, h2.cons rfl (by simp)⟩
    · simp [drawTransport_quiet h] at hd

/-! ### Vector operations -/

/-- What a vector write can do: a translation error with nothing issued, a `TransportError` part of the way, or
completion (R164). -/
theorem vecWrite_cases (op : MaskOp) (m : VMask) (order : List Nat) (s : State) :
    (∃ e, fanOut s.cfg m = .error e ∧ vecWrite op m order s = .error e s) ∨
    (∃ L, fanOut s.cfg m = .ok L ∧
      ((∃ k ∈ order, ∃ t, DevRun order s t ∧ vecWrite op m order s = .error (transportError k (op.prim (L.get k))) t) ∨
       (∃ t, DevRun order s t ∧ issueAll (fun k => op.prim (L.get k)) order s = .done () t ∧
         vecWrite op m order s = .done () (op.settle t)))) := by
  unfold vecWrite
  cases hf : fanOut s.cfg m with
  | error e => exact .inl ⟨e, rfl, rfl⟩
  | ok L =>
    refine .inr ⟨L, rfl, ?_⟩
    have hd := issueAll_devRun (fun k => op.prim (L.get k)) order s
    cases hr : issueAll (fun k => op.prim (L.get k)) order s with
    | error e t =>
      obtain ⟨k, hk, rfl⟩ := issueAll_error hr
      rw [hr] at hd
      exact .inl ⟨k, hk, t, hd, by simp [hr]⟩
    | done a t =>
      rw [hr] at hd
      exact .inr ⟨t, hd, rfl, by simp [hr]⟩

/-- What a vector read can do (R167). -/
theorem vecRead_cases (s : State) :
    (∃ k, s.cfg.isBound k = true ∧ ∃ t, DevRun s.cfg.boundSlots s t ∧ t.ports = s.ports ∧
      vecRead s = .error (transportError k .readInput) t) ∨
    (∃ I t, DevRun s.cfg.boundSlots s t ∧ t.ports = s.ports ∧ vecRead s = .done (aggregate t.cfg I) t) := by
  unfold vecRead
  have hd := readAll_devRun s.cfg.boundSlots (PerSlot.tabulate fun _ => 0#40) s
  have hp := readAll_ports s.cfg.boundSlots (PerSlot.tabulate fun _ => 0#40) s
  cases hr : readAll s.cfg.boundSlots (PerSlot.tabulate fun _ => 0#40) s with
  | error e t =>
    obtain ⟨k, hk, rfl⟩ := readAll_error hr
    rw [hr] at hd hp
    exact .inl ⟨k, (Config.mem_boundSlots _ _).mp hk, t, hd, hp, by simp⟩
  | done I t =>
    rw [hr] at hd hp
    exact .inr ⟨I, t, hd, hp, by simp⟩

/-- A vector write none of whose primitives fails, over an order that visits the bound slots (R164). -/
theorem vecWrite_quiet (op : MaskOp) (m : VMask) (order : List Nat) (s : State) (L : PerSlot LMask)
    (rest : List Bool) (hf : fanOut s.cfg m = .ok L) (ho : order.Perm s.cfg.boundSlots)
    (hq : s.env.transport = List.replicate order.length false ++ rest) :
    vecWrite op m order s = .done () (op.settle
      { s with ports := PerSlot.tabulate fun k =>
                 if s.cfg.isBound k then (op.prim (L.get k)).apply (s.ports.get k) else s.ports.get k,
               trace := s.trace ++ order.map (fun k => .dev k (op.prim (L.get k)) .ok),
               env := { s.env with transport := rest, draws := s.env.draws + order.length } }) := by
  have hmem : ∀ k, k ∈ order ↔ s.cfg.isBound k = true := fun k =>
    ho.mem_iff.trans (Config.mem_boundSlots _ _)
  have h := issueAll_quiet (fun k => op.prim (L.get k)) order s rest
    (ho.nodup_iff.mpr (Config.boundSlots_nodup _)) (fun k hk => Config.isBound_lt ((hmem k).mp hk)) hq
  simp only [vecWrite, hf, h, Run.andThen_done, hmem]

/-- A vector write whose first failure is slot `k`'s (R164). -/
theorem vecWrite_stops (op : MaskOp) (m : VMask) (L : PerSlot LMask) (before after : List Nat) (k : Nat)
    (rest : List Bool) (s : State) (hf : fanOut s.cfg m = .ok L)
    (h : s.env.transport = List.replicate before.length false ++ true :: rest) :
    ∃ t, vecWrite op m (before ++ k :: after) s = .error (transportError k (op.prim (L.get k))) t ∧
      StoppedAt s t before.length k (op.prim (L.get k)) rest := by
  obtain ⟨t, h1, h2⟩ := issueAll_stops (fun k => op.prim (L.get k)) before after k rest s h
  exact ⟨t, by simp [vecWrite, hf, h1], h2⟩

/-- A vector read whose first failure is slot `k`'s (R167). -/
theorem vecRead_stops (before after : List Nat) (k : Nat) (rest : List Bool) (s : State)
    (hb : s.cfg.boundSlots = before ++ k :: after)
    (h : s.env.transport = List.replicate before.length false ++ true :: rest) :
    ∃ t, vecRead s = .error (transportError k .readInput) t ∧ StoppedAt s t before.length k .readInput rest := by
  obtain ⟨t, h1, h2⟩ := readAll_stops before after k rest (PerSlot.tabulate fun _ => 0#40) s h
  exact ⟨t, by simp [vecRead, hb, h1], h2⟩

/-- Fan-in reads the bound slots' masks only. -/
theorem aggregate_congr {c : Config} {I J : PerSlot LMask} (h : ∀ k, c.isBound k = true → I.get k = J.get k) :
    aggregate c I = aggregate c J := by
  have hp : fannedIn c I = fannedIn c J := by
    funext p
    unfold fannedIn
    split
    · rename_i s l _
      cases hb : c.isBound s
      · rfl
      · rw [h s hb]
    · rfl
  simp only [aggregate, hp]

/-- A vector read none of whose primitives fails, the environment answering `f k` for slot `k` (R72, R167). -/
theorem vecRead_quiet (f : Nat → InputSample) (s : State) (rest : List Bool) (restI : List InputSample)
    (hq : s.env.transport = List.replicate s.cfg.boundSlots.length false ++ rest)
    (hi : s.env.inputs = s.cfg.boundSlots.map f ++ restI) :
    vecRead s = .done
      (aggregate s.cfg (PerSlot.tabulate fun k => (s.ports.get k).input (f k)))
      { s with trace := s.trace ++
                 s.cfg.boundSlots.map (fun k => .dev k .readInput (.levels ((s.ports.get k).input (f k)))),
               env := { s.env with transport := rest, inputs := restI,
                                   draws := s.env.draws + 2 * s.cfg.boundSlots.length } } := by
  have h := readAll_quiet f s.cfg.boundSlots (PerSlot.tabulate fun _ => 0#40) s rest restI
    (Config.boundSlots_nodup _) (fun k hk => Config.isBound_lt ((Config.mem_boundSlots _ _).mp hk)) hq hi
  simp only [vecRead, h, Run.andThen_done]
  congr 1
  refine aggregate_congr fun k hk => ?_
  have hk4 := Config.isBound_lt hk
  simp only [PerSlot.get_tabulate _ hk4, Config.mem_boundSlots, hk, if_true]

end Sys2Proof.Machine
end

