-- ==== Sys2Proof/Laws/PerInstr.lean ====
section
/-!
SUPPORT. The family of statements made for every command: the encoding has the length R106 gives its opcode, whatever
the operands and the number of slots.
-/

namespace Sys2Proof.Laws

open Sys2Proof Sys2Proof.Machine

/-- The encoded command has the length R106 gives. -/
def EncodedLength.Statement (i : Instr) : Prop := ∀ nslots : Nat, (encode nslots i).length = i.opcode.length nslots

theorem EncodedLength.resolve (vpin : BitVec 16) : EncodedLength.Statement (.resolve vpin) := fun _ => by
  simp [encode, encodeOperands, Instr.opcode, Opcode.length, Nat.add_comm]

theorem EncodedLength.pinsForSlot (slot : Byte) : EncodedLength.Statement (.pinsForSlot slot) := fun _ => by
  simp [encode, encodeOperands, Instr.opcode, Opcode.length]

theorem EncodedLength.fanOut (mask : VMask) : EncodedLength.Statement (.fanOut mask) := fun _ => by
  simp [encode, encodeOperands, Instr.opcode, Opcode.length, Nat.add_comm]

theorem EncodedLength.aggregate (perSlot : PerSlot LMask) : EncodedLength.Statement (.aggregate perSlot) := fun _ => by
  simp [encode, encodeOperands, Instr.opcode, Opcode.length, Nat.add_comm]

theorem EncodedLength.drive (mask : VMask) : EncodedLength.Statement (.drive mask) := fun _ => by
  simp [encode, encodeOperands, Instr.opcode, Opcode.length, Nat.add_comm]

theorem EncodedLength.triState (mask : VMask) : EncodedLength.Statement (.triState mask) := fun _ => by
  simp [encode, encodeOperands, Instr.opcode, Opcode.length, Nat.add_comm]

theorem EncodedLength.read : EncodedLength.Statement (.read) := fun _ => by
  simp [encode, encodeOperands, Instr.opcode, Opcode.length]

theorem EncodedLength.assignGround (mask : VMask) : EncodedLength.Statement (.assignGround mask) := fun _ => by
  simp [encode, encodeOperands, Instr.opcode, Opcode.length, Nat.add_comm]

theorem EncodedLength.assignSupplyPins (mask : VMask) : EncodedLength.Statement (.assignSupplyPins mask) := fun _ => by
  simp [encode, encodeOperands, Instr.opcode, Opcode.length, Nat.add_comm]

theorem EncodedLength.setSupplyVoltage (level : Word) : EncodedLength.Statement (.setSupplyVoltage level) := fun _ => by
  simp [encode, encodeOperands, Instr.opcode, Opcode.length, Nat.add_comm]

theorem EncodedLength.enableSupply (on : Bool) : EncodedLength.Statement (.enableSupply on) := fun _ => by
  simp [encode, encodeOperands, Instr.opcode, Opcode.length]

theorem EncodedLength.busCycle : EncodedLength.Statement (.busCycle) := fun _ => by
  simp [encode, encodeOperands, Instr.opcode, Opcode.length]

theorem EncodedLength.freeRunStart : EncodedLength.Statement (.freeRunStart) := fun _ => by
  simp [encode, encodeOperands, Instr.opcode, Opcode.length]

theorem EncodedLength.freeRunCancel : EncodedLength.Statement (.freeRunCancel) := fun _ => by
  simp [encode, encodeOperands, Instr.opcode, Opcode.length]

theorem EncodedLength.readReg (reg : Reg) : EncodedLength.Statement (.readReg reg) := fun _ => by
  simp [encode, encodeOperands, Instr.opcode, Opcode.length]

end Sys2Proof.Laws
end

