-- ==== Sys2Proof/Laws/Reset.lean ====
section
/-!
SUPPORT. The memory's canonical form in the states reset leaves, and through the memory operations of Machine/Ops.lean.
-/

namespace Sys2Proof.Machine

theorem resetWith_mem_wf (c : Config) (e : Env) : (State.resetWith c e).mem.wf = true := Memory.ofCells_wf c.mem0

theorem reset_mem_wf : State.reset.mem.wf = true := resetWith_mem_wf _ _

theorem memRead_mem (a : Nat) (s : State) : (memRead a s).2.mem = s.mem := rfl

theorem memWrite_wf {s : State} (h : s.mem.wf = true) (a : Nat) (v : Byte) : (memWrite a v s).mem.wf = true :=
  Memory.write_wf h a v

end Sys2Proof.Machine
end

