-- ==== Sys2Proof/Laws/Steps.lean ====
section
/-!
SUPPORT. What a command under the gate, an action of a transaction, and a step can do, said once.
-/

namespace Sys2Proof.Machine

/-! ### The mode and the gate -/

/-- A command is refused in `FAILED` mode, or its body runs (R300). -/
theorem whenReady_cases (s : State) (body : State → State) :
    (s.mode = .ready ∧ whenReady s body = body s) ∨
    (s.mode = .failed ∧ whenReady s body = respond [s.lastStatus.code] s) := by
  unfold whenReady
  cases h : s.mode <;> simp

/-- A gate command is held, completes and frees the gate, or raises (R250, R251). -/
theorem withGate_cases (s : State) (body : State → Run (List Byte)) :
    (s.gateOwner ≠ .free ∧ withGate s body = s) ∨
    (s.gateOwner = .free ∧ ∃ result t, body { s with gateOwner := .host } = .done result t ∧
      withGate s body = complete result (releaseGate .host t)) ∨
    (s.gateOwner = .free ∧ ∃ e t, body { s with gateOwner := .host } = .error e t ∧
      withGate s body = raiseHost e t) := by
  unfold withGate
  cases h : s.gateOwner with
  | free =>
    cases hb : body { s with gateOwner := .host } with
    | done result t => simp
    | error e t => simp
  | host => simp
  | freerun => simp

/-! ### The actions of a transaction -/

/-- What a transaction leaves alone: `t` differs from `s` only in the sequencer's registers, the ports, the memory,
the trace and the environment (R200, "Registers written"). -/
def TxnFrame (s t : State) : Prop :=
  t = { s with phase := t.phase, curAddr := t.curAddr, curDir := t.curDir, curValue := t.curValue,
               lastValid := t.lastValid, lastAddr := t.lastAddr, lastValue := t.lastValue, lastDir := t.lastDir,
               txnCount := t.txnCount, seq := t.seq, busUnknown := t.busUnknown, ports := t.ports,
               mem := t.mem, trace := t.trace, env := t.env }

theorem TxnFrame.refl (s : State) : TxnFrame s s := rfl

theorem TxnFrame.trans {s t u : State} (h : TxnFrame s t) (h' : TxnFrame t u) : TxnFrame s u := by
  unfold TxnFrame at *
  rw [h'] ; rw [h]

theorem DevRun.txnFrame {slots : List Nat} {s t : State} (h : DevRun slots s t) : TxnFrame s t := by
  have h1 := h.frame
  unfold TxnFrame
  rw [h1]

theorem setPhase_frame (p : Phase) (s : State) : TxnFrame s (setPhase p s) := by
  unfold setPhase
  split
  · rfl
  · rfl

theorem settle_frame (op : MaskOp) (s : State) : TxnFrame s (op.settle s) := by cases op <;> rfl

theorem vecWrite_frame (op : MaskOp) (m : VMask) (order : List Nat) (s : State) :
    TxnFrame s (vecWrite op m order s).state := by
  rcases vecWrite_cases op m order s with ⟨e, _, h⟩ | ⟨L, _, ⟨k, _, t, hd, h⟩ | ⟨t, hd, _, h⟩⟩ <;> rw [h]
  · exact TxnFrame.refl s
  · exact hd.txnFrame
  · exact hd.txnFrame.trans (settle_frame op t)

/-- Every action of a transaction keeps the frame, whether it completes or raises. -/
theorem TxnStage.run_frame (st : TxnStage) (s : State) : TxnFrame s (st.run s).state := by
  cases st with
  | precheck =>
    simp only [TxnStage.run, Machine.precheck]
    cases s.rmStatus <;> first | exact setPhase_frame .floating s | exact TxnFrame.refl s
  | floatBus => exact vecWrite_frame ..
  | enterSampled => exact setPhase_frame ..
  | sample =>
    simp only [TxnStage.run, sampleBus]
    rcases vecRead_cases s with ⟨k, _, t, hd, _, h⟩ | ⟨I, t, hd, _, h⟩ <;> rw [h]
    · exact hd.txnFrame
    · exact hd.txnFrame.trans rfl
  | branch =>
    simp only [TxnStage.run, branchPhase]
    cases s.curDir <;> exact setPhase_frame ..
  | readEnable => exact vecWrite_frame ..
  | readFetch => rfl
  | readClockHigh => exact vecWrite_frame ..
  | readClockLow => exact vecWrite_frame ..
  | writeClockHigh => exact vecWrite_frame ..
  | writeCapture =>
    simp only [TxnStage.run, writeSample]
    rcases vecRead_cases s with ⟨k, _, t, hd, _, h⟩ | ⟨I, t, hd, _, h⟩ <;> rw [h]
    · exact hd.txnFrame
    · exact hd.txnFrame.trans rfl
  | writeStore => rfl
  | writeClockLow => exact vecWrite_frame ..
  | enterSettled => exact setPhase_frame ..
  | settle => rfl
  | enterIdle => exact setPhase_frame ..

/-! ### A step -/

/-- What a step is: nothing, when no agent can move; else the host's or the worker's, on the state with at most a
scheduling answer used up (R250, R258, R299). -/
theorem step_cases (s : State) :
    (hostReady s = false ∧ workerReady s = false ∧ step s = .next s) ∨
    (hostReady s = true ∧ ∃ e, step s = hostStep { s with env := e }) ∨
    (workerReady s = true ∧ ∃ e, step s = .next (workerStep { s with env := e })) := by
  unfold step chooseAgent
  cases hh : hostReady s <;> cases hw : workerReady s
  · simp
  · exact .inr (.inr ⟨rfl, s.env, rfl⟩)
  · exact .inr (.inl ⟨rfl, s.env, rfl⟩)
  · cases hd : s.env.drawAgent with
    | mk a e =>
      cases a
      · exact .inr (.inl ⟨rfl, e, by simp⟩)
      · exact .inr (.inr ⟨rfl, e, by simp⟩)

end Sys2Proof.Machine
end

