-- ==== Sys2Proof/Tests/Slice0.lean ====
section
/-!
SUPPORT. Tests: ill-formed terms refused, words written out from the encoding tables, the spec's worked examples
(95_test_vectors.md and the Example lines of the rules), and a witness for the hypotheses of each statement.
-/

namespace Sys2Proof.Tests

open Sys2Proof Sys2Proof.Machine

/- One theorem at a time: in parallel the kernel evaluations of this file ask for more threads than there are. -/
set_option Elab.async false

/-! ### Configurations and states the tests use -/

/-- The configuration of 42_bus_cycle.md R213 (K1 of 95_test_vectors.md). -/
def k1 : Config :=
  { Config.reference with nslots := 1, registry := linearRegistry 40, bound := 1#4, mem0 := [(5, 0xA5#8)] }

/-- The role map of the write example (42_bus_cycle.md R214), on the entries of `R_LIN` its pins use. -/
def k2 : Config :=
  { k1 with
    registry := linearRegistry 18, mem0 := [],
    roleMap := { addressBits := [1, 2, 3, 4, 5, 6, 7, 8], dataBits := [9, 10, 11, 12, 13, 14, 15, 16],
                 rwPin := 17, clockPin := 18, alwaysDriven := [] } }

/-- Four slots, slot 2 unbound, and the entries of `R_LIN` that the examples of 40 and 41 use. -/
def k3 : Config :=
  { Config.reference with
    bound := 0xB#4,
    registry := [⟨1, 0, 1⟩, ⟨41, 1, 1⟩, ⟨42, 1, 2⟩, ⟨81, 2, 1⟩, ⟨160, 3, 40⟩] }

/-- Two slots, the data pins and the clock on different ones, the clock on the lower (K5 of 95_test_vectors.md), on
the entries of `R_LIN` its pins use. -/
def k5 : Config :=
  { k1 with
    nslots := 2, bound := 3#4, mem0 := [(3, 0x81#8)],
    registry := linearRegistry 9 ++
      [⟨41, 1, 1⟩, ⟨42, 1, 2⟩, ⟨43, 1, 3⟩, ⟨44, 1, 4⟩, ⟨45, 1, 5⟩, ⟨46, 1, 6⟩, ⟨47, 1, 7⟩, ⟨48, 1, 8⟩],
    roleMap := { addressBits := [1, 2, 3, 4], dataBits := [41, 42, 43, 44, 45, 46, 47, 48], rwPin := 5,
                 clockPin := 9, alwaysDriven := [] } }

/-- K1 with the entries for its role pins only. -/
def small : Config := { k1 with registry := linearRegistry 15 }

/-- No device under control: `BOUND = {}` written as bits. -/
def unboundAll : Config := { small with bound := 0#4 }

/-- A RoleMap whose rw pin has no registry entry: the precheck of every transaction fails. -/
def badRole : Config := { small with registry := linearRegistry 12 }

/-- An environment whose primitives complete as scripted, the target presenting the given levels at each read, and 0 drawn
for every other pin. -/
def envOf (transport : List Bool) (levels : List LMask) : Env :=
  { transport := transport, inputs := levels.map fun m => { levels := m, draw := 0#40 }, schedule := [], draws := 0 }

/-- An environment in which nothing fails. -/
def quiet (levels : List LMask) : Env := envOf (List.replicate 24 false) levels

/-- The machine after reset with a configuration and an environment. -/
def start (c : Config) (e : Env) : State := State.resetWith c e

/-- The state a command leaves. -/
def after (i : Instr) (s : State) : State :=
  match exec i s with
  | .next t => t
  | .fault _ => s
  | .refused _ => s

/-- The state a step leaves. -/
def stepped (s : State) : State :=
  match step s with
  | .next t => t
  | .fault _ => s
  | .refused _ => s

/-- The mask of a set of pins (R10). -/
def pins (ps : List Nat) : VMask := maskOf 160 fun k => ps.any fun p => p == k + 1

/-- The mask a translation gives, if it gives one. -/
def translated (c : Config) (m : VMask) : PerSlot LMask :=
  match fanOut c m with
  | .ok L => L
  | .error _ => PerSlot.tabulate fun _ => 0#40

/-- The worker about to sample, inside its first transaction. -/
def midTransaction : State :=
  { start small (quiet [0x1005#40]) with
    frRunning := true, frStage := .txn .sample, phase := .sampled, gateOwner := .freerun, seq := 2#32,
    trace := [.phase 1#32 .idle .floating .freerun, .phase 2#32 .floating .sampled .freerun] }

/-- A block whose registry construction failed. -/
def failedBlock : State := start { small with registry := [⟨0, 0, 1⟩] } (quiet [])

/-! ### WellFormed: one ill-formed term for each check -/

theorem test_wf_slot : (Instr.pinsForSlot 4#8).wellFormed 4 = false := by decide
theorem test_wf_slot_last : (Instr.pinsForSlot 3#8).wellFormed 4 = true := by decide
theorem test_wf_fanOut : (Instr.fanOut (1#160 <<< 40)).wellFormed 1 = false := by decide +kernel
theorem test_wf_drive : (Instr.drive (1#160 <<< 40)).wellFormed 1 = false := by decide +kernel
theorem test_wf_triState : (Instr.triState (1#160 <<< 80)).wellFormed 2 = false := by decide +kernel
theorem test_wf_assignGround : (Instr.assignGround (1#160 <<< 120)).wellFormed 3 = false := by decide +kernel
theorem test_wf_assignSupplyPins : (Instr.assignSupplyPins (1#160 <<< 40)).wellFormed 1 = false := by decide +kernel
theorem test_wf_mask_last : (Instr.drive (1#160 <<< 39)).wellFormed 1 = true := by decide +kernel
theorem test_wf_aggregate : (Instr.aggregate ⟨1#40, 0#40, 2#40, 0#40⟩).wellFormed 2 = false := by decide +kernel
theorem test_wf_config_slots : ({ k1 with nslots := 5 } : Config).wf = false := by decide +kernel
theorem test_wf_config_noSlot : ({ k1 with nslots := 0, bound := 0#4 } : Config).wf = false := by decide +kernel
theorem test_wf_config_bound : ({ k1 with bound := 2#4 } : Config).wf = false := by decide +kernel
theorem test_wf_config_alwaysDriven :
    ({ k1 with roleMap := { RoleMap.k1 with alwaysDriven := [⟨15, true⟩, ⟨15, false⟩] } } : Config).wf = false := by
  decide +kernel
theorem test_wf_config_reference : Config.reference.wf = true := by decide +kernel

/-! ### Decode: a word of every command, written out from R105 -/

theorem test_decode_resolve : decode 4 [0x01#8, 0x29#8, 0x01#8] = .ok (.resolve 0x0129#16) := by rfl
theorem test_decode_pinsForSlot : decode 4 [0x02#8, 0x03#8] = .ok (.pinsForSlot 3#8) := by rfl
theorem test_decode_fanOut :
    decode 1 [0x03#8, 0x01#8, 0x40#8, 0x00#8, 0x00#8, 0x00#8] = .ok (.fanOut 0x4001#160) := by rfl
theorem test_decode_aggregate :
    decode 2 [0x04#8, 0x01#8, 0x00#8, 0x00#8, 0x00#8, 0x80#8, 0x03#8, 0x00#8, 0x00#8, 0x00#8, 0x00#8]
      = .ok (.aggregate ⟨0x8000000001#40, 0x3#40, 0#40, 0#40⟩) := by rfl
theorem test_decode_drive :
    decode 1 [0x10#8, 0x00#8, 0x60#8, 0x00#8, 0x00#8, 0x00#8] = .ok (.drive 0x6000#160) := by rfl
theorem test_decode_triState :
    decode 1 [0x11#8, 0xFF#8, 0xFF#8, 0xFF#8, 0xFF#8, 0xFF#8] = .ok (.triState 0xFFFFFFFFFF#160) := by rfl
theorem test_decode_read : decode 4 [0x12#8] = .ok .read := by rfl
theorem test_decode_assignGround :
    decode 1 [0x13#8, 0x00#8, 0x00#8, 0x08#8, 0x00#8, 0x00#8] = .ok (.assignGround 0x80000#160) := by rfl
theorem test_decode_assignSupplyPins :
    decode 1 [0x14#8, 0x00#8, 0x00#8, 0x00#8, 0x00#8, 0x80#8] = .ok (.assignSupplyPins 0x8000000000#160) := by rfl
theorem test_decode_setSupplyVoltage :
    decode 4 [0x15#8, 0x05#8, 0x00#8, 0x00#8, 0x80#8] = .ok (.setSupplyVoltage 0x80000005#32) := by rfl
theorem test_decode_enableSupply : decode 4 [0x16#8, 0x01#8] = .ok (.enableSupply true) := by rfl
theorem test_decode_busCycle : decode 4 [0x20#8] = .ok .busCycle := by rfl
theorem test_decode_freeRunStart : decode 4 [0x21#8] = .ok .freeRunStart := by rfl
theorem test_decode_freeRunCancel : decode 4 [0x22#8] = .ok .freeRunCancel := by rfl
theorem test_decode_readReg : decode 4 [0x30#8, 0x1A#8] = .ok (.readReg .curDir) := by rfl
/-- The length of a mask command follows the number of slots (R106). -/
theorem test_decode_length :
    decode 2 [0x10#8, 0x00#8, 0x60#8, 0x00#8, 0x00#8, 0x00#8] = .error (.wrongLength .drive) := by rfl
theorem test_decode_badBool : decode 4 [0x16#8, 0x02#8] = .error (.badOperand .enableSupply) := by rfl
theorem test_decode_badReg : decode 4 [0x30#8, 0x1B#8] = .error (.badOperand .readReg) := by rfl
theorem test_decode_badSlot : decode 4 [0x02#8, 0x04#8] = .error (.badOperand .pinsForSlot) := by rfl
theorem test_decode_reserved : decode 4 [0x17#8] = .error (.unknownOpcode 0x17#8) := by rfl
theorem test_decode_empty : decode 4 [] = .error .noOpcode := by rfl
/-- The opcodes are distinct, and so are the register numbers: no word has two readings. -/
theorem test_opcodes_distinct : (Opcode.all.map Opcode.code).Nodup := by decide +kernel
theorem test_registers_distinct : (Reg.all.map Reg.number).Nodup := by decide +kernel
theorem test_specWords : Obligations.DecodeSpecWords := by
  unfold Obligations.DecodeSpecWords
  exact ⟨rfl, rfl, rfl, rfl, rfl, rfl, rfl, rfl, rfl⟩

/-! ### The assembler (R111) -/

/-- `DRIVE {14, 15}` of R111: the braces are characters 123 and 125. -/
theorem test_assemble_drive :
    (assemble k1 ("DRIVE ".toList ++ [Char.ofNat 123] ++ "14, 15".toList ++ [Char.ofNat 125])).map
      (fun is => is.map (encode 1)) = some [[0x10#8, 0x00#8, 0x60#8, 0x00#8, 0x00#8, 0x00#8]] := by decide +kernel
theorem test_assemble_register :
    assemble k1 "READ_REG TXN_COUNT ; count".toList = some [.readReg .txnCount] := by decide +kernel
theorem test_assemble_step : assemble k1 "STEP 0x2".toList = some [.busCycle, .busCycle] := by decide +kernel

/-! ### The spec's examples, command by command -/

/-- R141: `RESOLVE 41` answers slot 1, local pin 1. -/
theorem test_resolve : (after (.resolve 41#16) (start k3 (quiet []))).responses = [[0x00#8, 0x01#8, 0x01#8]] := by
  decide +kernel
/-- R141: `RESOLVE 0` answers `UnmappedPin`. -/
theorem test_resolve_unmapped : (after (.resolve 0#16) (start k3 (quiet []))).responses = [[0x03#8]] := by
  decide +kernel
/-- R143: pins 41 and 42 of slot 1 are bits 0 and 1 of byte 5. -/
theorem test_pinsForSlot : (after (.pinsForSlot 1#8) (start k3 (quiet []))).responses =
    [[0x00#8] ++ List.replicate 5 0x00#8 ++ [0x03#8] ++ List.replicate 14 0x00#8] := by decide +kernel
/-- R161, the first example. -/
theorem test_fanOut : (after (.fanOut (pins [1, 41, 42, 160])) (start k3 (quiet []))).responses =
    [[0x00#8, 0x01#8] ++ List.replicate 4 0x00#8 ++ [0x03#8] ++ List.replicate 13 0x00#8 ++ [0x80#8]] := by
  decide +kernel
/-- R161, the second example: `ERR_PIN = 81`, `ERR_SLOT = 2`. -/
theorem test_fanOut_unbound :
    let t := after (.fanOut (pins [81])) (start k3 (quiet []))
    t.responses = [[0x04#8]] ∧ t.errPin = 81#16 ∧ t.errSlot = 2#8 := by decide +kernel
/-- R163: slot 2 is unbound and its mask is dropped. -/
theorem test_aggregate :
    (after (.aggregate ⟨1#40, 3#40, 0xFFFFFFFFFF#40, 0x8000000000#40⟩) (start k3 (quiet []))).responses =
      [0x00#8 :: vmaskBytes 4 (pins [1, 41, 42, 160])] := by decide +kernel
/-- R165: three primitives in ascending slot order (after the three `init()`s of reset). -/
theorem test_drive : (after (.drive (pins [1, 41, 42, 160])) (start k3 (quiet []))).trace.drop 3 =
    [.dev 0 (.setOutput 0x1#40) .ok, .dev 1 (.setOutput 0x3#40) .ok, .dev 3 (.setOutput 0x8000000000#40) .ok] := by
  decide +kernel
/-- R165: a pin of an unbound slot fails before any primitive. -/
theorem test_drive_unbound :
    let t := after (.drive (pins [81])) (start k3 (quiet []))
    t.responses = [[0x04#8]] ∧ t.trace.drop 3 = [] := by decide +kernel
/-- R166: `TRI_STATE {1..40}`; R32: it clears `BUS_UNKNOWN`. -/
theorem test_triState :
    let t := after (.triState 0xFFFFFFFFFF#160) (start k1 (quiet []))
    t.ports.s0.tri = some 0xFFFFFFFFFF#40 ∧ t.ports.s0.out = none ∧ t.busUnknown = false := by decide +kernel
/-- R167: with every pin tri-stated the devices return `0x1`, `0x0`, `0x8000000000`. -/
theorem test_read :
    let s := start k3 (quiet [0x1#40, 0x0#40, 0x8000000000#40])
    (after .read (after (.triState (pins [1, 41, 42, 160])) s)).responses.getLast? =
      some (0x00#8 :: vmaskBytes 4 (pins [1, 160])) := by decide +kernel
/-- R72: the level on a tri-stated pin of a device never sent an assignment, as in R213; the draw on a pin assigned to
ground, and on every pin after a failed assignment (U6). -/
theorem test_input_settings :
    let d : Port := { Port.unknown with tri := some 3#40 }
    d.input { levels := 1#40, draw := 6#40 } = 5#40 ∧
    ({ d with gnd := .pins 2#40 } : Port).input { levels := 1#40, draw := 6#40 } = 7#40 ∧
    ({ d with sup := .lost } : Port).input { levels := 1#40, draw := 6#40 } = 6#40 := by decide +kernel
/-- R71: no level is claimed while the ground or the supply setting is unknown (U1, U6), nor for an assigned pin (U7). -/
theorem test_level_settings :
    let d : Port := { Port.unknown with tri := some 1#40, out := some 2#40, gnd := .pins 0#40, sup := .pins 8#40 }
    d.level 1 = .triStated ∧ d.level 2 = .driven true ∧ d.level 3 = .driven false ∧ d.level 4 = .notGiven ∧
    ({ d with gnd := .never } : Port).level 1 = .unknown ∧ ({ d with sup := .lost } : Port).level 2 = .unknown := by
  decide +kernel
/-- R164, R167: the second bound slot fails. -/
theorem test_read_fails :
    let t := after .read (start k3 (envOf [false, false, false, false, true] [0x1#40]))
    t.responses = [[0x05#8]] ∧ t.errSlot = 1#8 ∧ t.errPrim = 3#8 ∧ t.busUnknown = true := by decide +kernel
/-- R168. -/
theorem test_assignGround : (after (.assignGround (pins [20])) (start k1 (quiet []))).ports.s0.gnd = .pins 0x80000#40 := by
  decide +kernel
/-- R169. -/
theorem test_assignSupplyPins :
    (after (.assignSupplyPins (pins [40])) (start k1 (quiet []))).ports.s0.sup = .pins 0x8000000000#40 := by
  decide +kernel
/-- R170: slots 0, 1, 3 in that order. -/
theorem test_setSupplyVoltage : (after (.setSupplyVoltage 5#32) (start k3 (quiet []))).trace.drop 3 =
    [.dev 0 (.setSupplyVoltage 5) .ok, .dev 1 (.setSupplyVoltage 5) .ok, .dev 3 (.setSupplyVoltage 5) .ok] := by
  decide +kernel
/-- R170: the level is two's complement. -/
theorem test_setSupplyVoltage_negative :
    (after (.setSupplyVoltage 0xFFFFFFFF#32) (start small (quiet []))).ports.s0.vlevel = some (-1) := by
  decide +kernel
/-- R171. -/
theorem test_enableSupply :
    let t := after (.enableSupply true) (start k3 (quiet []))
    t.ports.s3.supEn = some true ∧ t.ports.s2.supEn = none := by decide +kernel
/-- R213: the read example, its trace and its response (R110), on a device never sent an assignment. -/
theorem test_busCycle_read :
    let t := after .busCycle (start k1 (quiet [0x1005#40]))
    t.responses = [[0x00#8, 0x05#8, 0x00#8, 0x00#8, 0x00#8, 0xA5#8, 0x01#8]] ∧
    t.trace.drop 1 =
      [.phase 1#32 .idle .floating .host, .dev 0 (.setTristate 0xFFFFFF9FFF#40) .ok,
       .phase 2#32 .floating .sampled .host, .dev 0 .readInput (.levels 0x1005#40),
       .phase 3#32 .sampled .readDrive .host, .dev 0 (.setTristate 0xFFFFFF900F#40) .ok, .memRead 5 0xA5#8,
       .dev 0 (.setOutput 0x6A50#40) .ok, .dev 0 (.setOutput 0x4A50#40) .ok,
       .phase 4#32 .readDrive .settled .host, .record 5#32 0xA5#8 .read, .phase 5#32 .settled .idle .host] := by
  decide +kernel
/-- R214: the write example: the byte stored and the response. -/
theorem test_busCycle_write :
    let t := after .busCycle (start k2 (quiet [0x10#40, 0xA10#40]))
    t.responses = [[0x00#8, 0x10#8, 0x00#8, 0x00#8, 0x00#8, 0x0A#8, 0x00#8]] ∧ t.mem = [(0x10, 0x0A#8)] := by
  decide +kernel
/-- R252: the command answers at once and the worker runs. -/
theorem test_freeRunStart :
    let t := after .freeRunStart (start small (quiet []))
    t.responses = [[0x00#8]] ∧ t.frRunning = true ∧ t.frStage = .boundary := by decide +kernel
/-- R254: with no worker the command has no effect. -/
theorem test_freeRunCancel_idle : (after .freeRunCancel (start small (quiet []))).frCancel = false := by decide +kernel
/-- R257: after reset `FLAGS` shows only `BUS_UNKNOWN`. -/
theorem test_readReg : (after (.readReg .flags) (start k1 (quiet []))).responses =
    [[0x00#8, 0x01#8, 0x00#8, 0x00#8, 0x00#8]] := by decide +kernel
/-- R257: inside a transaction `PHASE` reads 2 and `FLAGS` shows the worker as the gate's owner. -/
theorem test_readReg_phase : (after (.readReg .phase) midTransaction).responses =
    [[0x00#8, 0x02#8, 0x00#8, 0x00#8, 0x00#8]] := by decide +kernel
/-- R300: in `FAILED` mode a command answers the reset error. -/
theorem test_failed : (after .busCycle failedBlock).responses = [[0x01#8]] := by decide +kernel
/-- From `State.reset` the next step runs the command placed at the head of the port. -/
theorem test_fetchWord : (stepped (State.reset.withFetchWord 8 0x21)).frRunning = true := by decide +kernel

/-! ### Witnesses: the hypotheses of each statement are met together -/

theorem witness_ResetEndsReady :
    registryWf k3 = true ∧
    (quiet []).transport = List.replicate k3.boundSlots.length false ++ List.replicate 21 false := by decide +kernel

/-- The table with one more entry after the good ones. -/
def withEntry (e : Entry) : Config := { small with registry := linearRegistry 2 ++ [e] }

/-- Out of range: pin 0, pin N+1, slot -1, slot NSLOTS, local pin 0 and local pin 41. -/
theorem witness_ResetFailsAtFirstBadEntry_range :
    registryWf { small with registry := linearRegistry 2 } = true ∧
    [(⟨0, 0, 3⟩ : Entry), ⟨41, 0, 3⟩, ⟨3, -1, 3⟩, ⟨3, 1, 3⟩, ⟨3, 0, 0⟩, ⟨3, 0, 41⟩].all (fun e =>
      decide ((withEntry e).registry = linearRegistry 2 ++ e :: []) &&
      !decide (1 ≤ e.vpin ∧ e.vpin ≤ (40 * small.nslots : Nat) ∧ 0 ≤ e.slot ∧ e.slot < (small.nslots : Nat) ∧
        1 ≤ e.localPin ∧ e.localPin ≤ 40)) = true := by decide +kernel

/-- Duplicates, at the last values in range: the virtual pin of an earlier entry, and its (slot, local pin). -/
theorem witness_ResetFailsAtFirstBadEntry_duplicate :
    [(⟨1, 0, 40⟩ : Entry), ⟨40, 0, 2⟩].all (fun e =>
      decide (1 ≤ e.vpin ∧ e.vpin ≤ (40 * small.nslots : Nat) ∧ 0 ≤ e.slot ∧ e.slot < (small.nslots : Nat) ∧
        1 ≤ e.localPin ∧ e.localPin ≤ 40) &&
      (linearRegistry 2).any fun d =>
        decide (d.vpin = e.vpin ∨ (d.slot = e.slot ∧ d.localPin = e.localPin))) = true := by decide +kernel

theorem witness_ResetFailsAtInit :
    registryWf k3 = true ∧ k3.boundSlots = [0] ++ 1 :: [3] ∧
    (envOf [false, true, false] []).transport = List.replicate [0].length false ++ true :: [false] := by
  decide +kernel

/-- The clauses in turn: 33 address pins; 7 data pins; a pin that repeats; an unmapped pin; an unbound one. -/
theorem witness_RoleMapCheckAtReset_length :
    let c : Config := { small with roleMap := { RoleMap.k1 with addressBits := List.replicate 33 1 } }
    let d : Config := { small with roleMap := { RoleMap.k1 with dataBits := List.replicate 7 1 } }
    registryWf c = true ∧ registryWf d = true ∧
    (quiet []).transport = List.replicate c.boundSlots.length false ++ List.replicate 23 false ∧
    c.roleMap.addressBits.length > 32 ∧ d.roleMap.dataBits.length ≠ 8 := by decide +kernel
theorem witness_RoleMapCheckAtReset_repeat :
    let c : Config := { small with roleMap := { RoleMap.k1 with addressBits := [1, 2, 1] } }
    registryWf c = true ∧
    (quiet []).transport = List.replicate c.boundSlots.length false ++ List.replicate 23 false ∧
    c.roleMap.addressBits.length ≤ 32 ∧ c.roleMap.dataBits.length = 8 ∧
    rolePins c = [1, 2] ++ 1 :: (rolePins c).drop 3 ∧ [(1 : VPin), 2].Nodup ∧ (1 : VPin) ∈ [(1 : VPin), 2] := by
  decide +kernel
theorem witness_RoleMapCheckAtReset_unmapped :
    registryWf badRole = true ∧
    (quiet []).transport = List.replicate badRole.boundSlots.length false ++ List.replicate 23 false ∧
    badRole.roleMap.addressBits.length ≤ 32 ∧ badRole.roleMap.dataBits.length = 8 ∧
    rolePins badRole = (rolePins badRole).take 12 ++ 13 :: [14, 15] ∧ ((rolePins badRole).take 12).Nodup ∧
    (rolePins badRole).Nodup ∧
    ((rolePins badRole).take 12).all (fun q => (res badRole q).any fun x => badRole.isBound x.1) = true ∧
    res badRole 13 = none := by decide +kernel
theorem witness_RoleMapCheckAtReset_unbound :
    registryWf unboundAll = true ∧
    (quiet []).transport = List.replicate unboundAll.boundSlots.length false ++ (quiet []).transport ∧
    unboundAll.roleMap.addressBits.length ≤ 32 ∧ unboundAll.roleMap.dataBits.length = 8 ∧
    rolePins unboundAll = [] ++ 1 :: (rolePins unboundAll).drop 1 ∧ (rolePins unboundAll).Nodup ∧
    res unboundAll 1 = some (0, 1) ∧ unboundAll.isBound 0 = false := by decide +kernel
theorem witness_RoleMapCheckAtReset_ok :
    registryWf small = true ∧
    (quiet []).transport = List.replicate small.boundSlots.length false ++ List.replicate 23 false ∧
    small.roleMap.addressBits.length ≤ 32 ∧ small.roleMap.dataBits.length = 8 ∧ (rolePins small).Nodup ∧
    (rolePins small).all (fun q => (res small q).any fun x => small.isBound x.1) = true := by decide +kernel

/-- A step for the statements over any step: the worker samples the bus. -/
theorem witness_step : step midTransaction = .next (stepped midTransaction) := rfl

theorem witness_ConfigurationNeverChanges : ∃ t, step midTransaction = .next t := ⟨_, witness_step⟩
theorem witness_DecodeOfEncode : (Instr.drive (1#160 <<< 159)).wellFormed 4 = true := by decide +kernel
theorem witness_EncodeOfDecode : (4 : Nat) ≤ 4 ∧ decode 4 [0x02#8, 0x03#8] = .ok (.pinsForSlot 3#8) := ⟨by decide, rfl⟩
/-- Each clause at a boundary: 0x00, one byte too long, operand 2, slot NSLOTS, register 0x1B. -/
theorem witness_UndecodableRefused :
    (∀ op : Opcode, op.code ≠ 0x00#8) ∧ ([0#8] : List Byte).length + 1 ≠ Opcode.read.length 4 ∧
    (2#8 : Byte) ≠ 0#8 ∧ (2#8 : Byte) ≠ 1#8 ∧ 4 ≤ (4#8 : Byte).toNat ∧ 0x1A < (0x1B#8 : Byte).toNat := by
  refine ⟨fun op => ?_, by decide, by decide, by decide, by decide, by decide⟩
  cases op <;> decide

theorem witness_FanInOfFanOut :
    k3.nslots ≤ 4 ∧ registryWf k3 = true ∧
    ∀ k, (1#160 : VMask).getLsbD k = true → k < 40 * k3.nslots ∧
      ∃ s l, res k3 (Int.ofNat (k + 1)) = some (s, l) ∧ k3.isBound s = true := by
  refine ⟨by decide, by decide +kernel, fun k hk => ?_⟩
  have h : k = 0 := by
    by_contra h
    simp [BitVec.getLsbD_one, h] at hk
  subst h
  exact ⟨by decide, 0, 1, by decide +kernel, by decide +kernel⟩
theorem witness_SequencerMaskBits : k1.nslots ≤ 4 ∧ 39 < 40 * k1.nslots := by decide
theorem witness_SequencerMasksTranslate : checkRoleMap small = none := by decide +kernel
theorem witness_ClockSlotIsLast :
    res k5 k5.roleMap.clockPin = some (0, 9) ∧ k5.isBound 0 = true ∧ clockLastSlots k5 = [1] ++ [0] := by
  decide +kernel

/-- The start states the command statements speak of: `READY`, the gate free, `Idle`. -/
theorem witness_start :
    (start k3 (quiet [])).mode = .ready ∧ (start k3 (quiet [])).gateOwner = .free ∧
    (start k3 (quiet [])).phase = .idle ∧ k3.nslots ≤ 4 := by decide +kernel
theorem witness_ResolveAnswers :
    (start k3 (quiet [])).mode = .ready ∧ (start k3 (quiet [])).gateOwner ≠ .host ∧
    res k3 (Int.ofNat (160#16).toNat) = some (3, 40) ∧ res k3 (Int.ofNat (161#16).toNat) = none := by decide +kernel
theorem witness_PinsForSlotAnswers :
    (start k3 (quiet [])).mode = .ready ∧ (start k3 (quiet [])).gateOwner ≠ .host ∧ k3.nslots ≤ 4 ∧
    (3#8 : Byte).toNat < k3.nslots ∧ k3.nslots ≤ (4#8 : Byte).toNat ∧ (start k3 (quiet [])).phase = .idle := by
  decide +kernel
theorem witness_FanOutAnswers :
    (start k3 (quiet [])).mode = .ready ∧ (start k3 (quiet [])).gateOwner ≠ .host ∧ k3.nslots ≤ 4 ∧
    fanOut k3 (pins [1, 160]) = .ok ⟨1#40, 0#40, 0#40, 0x8000000000#40⟩ ∧
    fanOut k3 (pins [81]) = .error { status := .unboundDevice, pin := 81#16, slot := 2#8, prim := 0xFF#8 } := by
  refine ⟨by decide +kernel, by decide +kernel, by decide, by decide +kernel, by decide +kernel⟩
theorem witness_AggregateAnswers : (start k3 (quiet [])).mode = .ready ∧ k3.nslots ≤ 4 := by decide +kernel

/-- The three `init()`s of reset have used up three answers of the script. -/
theorem witness_quietWrite (m : VMask) (h : m = pins [1, 160]) :
    (start k3 (quiet [])).mode = .ready ∧ (start k3 (quiet [])).gateOwner = .free ∧
    fanOut k3 m = .ok ⟨1#40, 0#40, 0#40, 0x8000000000#40⟩ ∧
    (start k3 (quiet [])).env.transport =
      List.replicate (start k3 (quiet [])).cfg.boundSlots.length false ++ List.replicate 18 false := by
  subst h
  refine ⟨by decide +kernel, by decide +kernel, by decide +kernel, by decide +kernel⟩
theorem witness_DriveCompletes :
    (start k3 (quiet [])).mode = .ready ∧ (start k3 (quiet [])).gateOwner = .free ∧
    fanOut k3 (pins [1, 160]) = .ok ⟨1#40, 0#40, 0#40, 0x8000000000#40⟩ ∧
    (start k3 (quiet [])).env.transport =
      List.replicate (start k3 (quiet [])).cfg.boundSlots.length false ++ List.replicate 18 false :=
  witness_quietWrite _ rfl
theorem witness_TriStateCompletes :
    (start k3 (quiet [])).mode = .ready ∧ (start k3 (quiet [])).gateOwner = .free ∧
    fanOut k3 (pins [1, 160]) = .ok ⟨1#40, 0#40, 0#40, 0x8000000000#40⟩ ∧
    (start k3 (quiet [])).env.transport =
      List.replicate (start k3 (quiet [])).cfg.boundSlots.length false ++ List.replicate 18 false :=
  witness_quietWrite _ rfl
theorem witness_AssignmentsComplete :
    (start k3 (quiet [])).mode = .ready ∧ (start k3 (quiet [])).gateOwner = .free ∧
    fanOut k3 (pins [1, 160]) = .ok ⟨1#40, 0#40, 0#40, 0x8000000000#40⟩ ∧
    (start k3 (quiet [])).env.transport =
      List.replicate (start k3 (quiet [])).cfg.boundSlots.length false ++ List.replicate 18 false :=
  witness_quietWrite _ rfl
theorem witness_SupplyCommandsComplete :
    (start k3 (quiet [])).mode = .ready ∧ (start k3 (quiet [])).gateOwner = .free ∧
    (start k3 (quiet [])).env.transport =
      List.replicate (start k3 (quiet [])).cfg.boundSlots.length false ++ List.replicate 18 false := by
  decide +kernel

theorem witness_MaskedWriteTranslationError :
    (start k3 (quiet [])).mode = .ready ∧ (start k3 (quiet [])).gateOwner = .free ∧
    (start k3 (quiet [])).phase = .idle ∧
    fanOut k3 (pins [81]) = .error { status := .unboundDevice, pin := 81#16, slot := 2#8, prim := 0xFF#8 } := by
  refine ⟨by decide +kernel, by decide +kernel, by decide +kernel, by decide +kernel⟩

/-- An environment whose fifth primitive fails: the second of the first command, on slot 1. -/
def failing (levels : List LMask) : State := start k3 (envOf [false, false, false, false, true, false] levels)

theorem witness_MaskedWriteStopsAtFailure :
    (failing []).mode = .ready ∧ (failing []).gateOwner = .free ∧ (failing []).phase = .idle ∧
    fanOut k3 (pins [1, 160]) = .ok ⟨1#40, 0#40, 0#40, 0x8000000000#40⟩ ∧
    (failing []).cfg.boundSlots = [0] ++ 1 :: [3] ∧
    (failing []).env.transport = List.replicate [0].length false ++ true :: [false] := by
  refine ⟨by decide +kernel, by decide +kernel, by decide +kernel, by decide +kernel, by decide +kernel, by decide +kernel⟩
theorem witness_ReadCompletes :
    let s := start k3 (quiet [1#40, 2#40, 3#40])
    s.mode = .ready ∧ s.gateOwner = .free ∧ s.cfg.nslots ≤ 4 ∧
    s.env.transport = List.replicate s.cfg.boundSlots.length false ++ List.replicate 18 false ∧
    s.env.inputs = s.cfg.boundSlots.map
      (fun k => if k = 0 then ⟨1#40, 0#40⟩ else if k = 1 then ⟨2#40, 0#40⟩ else ⟨3#40, 0#40⟩) ++ [] := by
  decide +kernel
theorem witness_ReadStopsAtFailure :
    (failing [1#40]).mode = .ready ∧ (failing [1#40]).gateOwner = .free ∧ (failing [1#40]).phase = .idle ∧
    (failing [1#40]).cfg.boundSlots = [0] ++ 1 :: [3] ∧
    (failing [1#40]).env.transport = List.replicate [0].length false ++ true :: [false] ∧
    (failing [1#40]).env.inputs = [0].map (fun _ => ⟨1#40, 0#40⟩) ++ [] := by decide +kernel
/-- At the last local pin: tri-stated and never assigned, or assigned elsewhere; driven; assigned; the assignment lost;
the tri-state setting unknown. -/
theorem witness_InputBitSources :
    let high : LMask := 0x8000000000#40
    let d : Port := { Port.unknown with tri := some high }
    39 < 40 ∧ d.tri = some high ∧ high.getLsbD 39 = true ∧ d.gnd = .never ∧ d.sup = .never ∧
    ({ d with gnd := .pins 1#40 } : Port).gnd = .pins 1#40 ∧ (1#40 : LMask).getLsbD 39 = false ∧
    ({ d with tri := some 0#40 } : Port).tri = some 0#40 ∧ (0#40 : LMask).getLsbD 39 = false ∧
    ({ d with gnd := .lost } : Port).gnd = .lost ∧ ({ d with sup := .pins high } : Port).sup = .pins high ∧
    Port.unknown.tri = none := by decide +kernel
theorem witness_SupplyStopsAtFailure :
    (failing []).mode = .ready ∧ (failing []).gateOwner = .free ∧ (failing []).phase = .idle ∧
    (failing []).cfg.boundSlots = [0] ++ 1 :: [3] ∧
    (failing []).env.transport = List.replicate [0].length false ++ true :: [false] := by decide +kernel
theorem witness_MaskedWriteIdempotent :
    let s := start k3 (quiet [])
    let t := after (.triState (pins [1, 160])) s
    s.mode = .ready ∧ s.gateOwner = .free ∧
    s.env.transport =
      List.replicate (s.cfg.boundSlots.length + s.cfg.boundSlots.length) false ++ List.replicate 15 false ∧
    exec (MaskOp.tristate.instr (pins [1, 160])) s = .next t ∧ t.lastStatus = .ok ∧
    exec (MaskOp.tristate.instr (pins [1, 160])) t = .next (after (.triState (pins [1, 160])) t) := by
  refine ⟨by decide +kernel, by decide +kernel, by decide +kernel, rfl, by decide +kernel, rfl⟩

/-- The read of R213, on the role pins alone: direction bit 12 and address 5. -/
theorem witness_BusCycleReadCompletes :
    let s := start small (quiet [0x1005#40])
    let c := small
    let Lf := translated c (floatMask c)
    let tri := portsWith c (fun k d => { d with tri := some (Lf.get k) }) s.ports
    let input := aggregate c (returned tri fun _ => ⟨0x1005#40, 0#40⟩)
    let v := s.mem.read (sampleBits input c.roleMap.addressBits)
    s.cfg = c ∧ s.mode = .ready ∧ s.gateOwner = .free ∧ s.phase = .idle ∧ s.rmStatus = .ok ∧
    c.roleMap.addressBits.length ≤ 32 ∧
    s.env.transport = List.replicate (5 * c.boundSlots.length) false ++ List.replicate 18 false ∧
    s.env.inputs = c.boundSlots.map (fun _ => ⟨0x1005#40, 0#40⟩) ++ [] ∧
    input.getLsbD (bitOfPin c.roleMap.rwPin) = c.rwReadLevel ∧
    pinFault c 15 = none ∧ checkRoleMap c = none ∧ v = 0xA5#8 := by decide +kernel
/-- The four masks of that read translate. -/
theorem witness_BusCycleReadCompletes_masks :
    [floatMask small, readTriMask small, driveMask small true (some 0xA5#8), driveMask small false (some 0xA5#8)].all
      (fun m => match fanOut small m with
        | .ok _ => true
        | .error _ => false) = true := by decide +kernel
/-- The write of R214: direction bit 16 clear, address 0x10, then data 0x0A. -/
theorem witness_BusCycleWriteCompletes :
    let s := start k2 (quiet [0x10#40, 0xA10#40])
    let c := k2
    let Lf := translated c (floatMask c)
    let tri := portsWith c (fun k d => { d with tri := some (Lf.get k) }) s.ports
    let input := aggregate c (returned tri fun _ => ⟨0x10#40, 0#40⟩)
    s.cfg = c ∧ s.mode = .ready ∧ s.gateOwner = .free ∧ s.phase = .idle ∧ s.rmStatus = .ok ∧
    c.roleMap.addressBits.length ≤ 32 ∧ c.roleMap.dataBits.length = 8 ∧
    s.env.transport = List.replicate (5 * c.boundSlots.length) false ++ List.replicate 18 false ∧
    s.env.inputs = c.boundSlots.map (fun _ => ⟨0x10#40, 0#40⟩) ++
      (c.boundSlots.map (fun _ => ⟨0xA10#40, 0#40⟩) ++ []) ∧
    input.getLsbD (bitOfPin c.roleMap.rwPin) ≠ c.rwReadLevel := by decide +kernel
theorem witness_BusCycleWriteCompletes_masks :
    [floatMask k2, driveMask k2 true none, driveMask k2 false none].all
      (fun m => match fanOut k2 m with
        | .ok _ => true
        | .error _ => false) = true := by decide +kernel
theorem witness_BusCyclePrecheckFails :
    let s := start badRole (quiet [])
    s.mode = .ready ∧ s.gateOwner = .free ∧ s.phase = .idle ∧ roleCheckLatched s = true ∧ s.rmStatus ≠ .ok := by
  decide +kernel
/-- The cycle of R213, and the same with the last primitive, the clock-low drive, failing (R209). -/
def completing : State := start small (quiet [0x1005#40])
def aborting : State := start small (envOf [false, false, false, false, false, true] [0x1005#40])

/-- The hypotheses hold of both, and each outcome occurs. -/
theorem witness_BusCycleCompletesOrAborts :
    [completing, aborting].all (fun s =>
      decide (s.mode = .ready ∧ s.gateOwner = .free ∧ s.phase = .idle ∧ s.rmStatus = .ok) &&
      (checkRoleMap s.cfg).isNone) = true ∧
    [completing, aborting].map (fun s => (after .busCycle s).lastStatus) = [.ok, .transportError] := by decide +kernel
theorem witness_BusCycleCompletesOrAborts_runs :
    exec .busCycle completing = .next (after .busCycle completing) ∧
    exec .busCycle aborting = .next (after .busCycle aborting) := ⟨rfl, rfl⟩
/-- A read and a write. -/
theorem witness_DataBusOwnershipAfterCycle :
    let s := start small (quiet [0x1005#40])
    let w := start small (quiet [0x5#40, 0x5#40])
    s.mode = .ready ∧ s.gateOwner = .free ∧ s.cfg.nslots ≤ 4 ∧ registryWf s.cfg = true ∧
    checkRoleMap s.cfg = none ∧ (after .busCycle s).lastStatus = .ok ∧ (after .busCycle s).lastDir = .read ∧
    w.mode = .ready ∧ w.gateOwner = .free ∧ w.cfg = s.cfg ∧
    (after .busCycle w).lastStatus = .ok ∧ (after .busCycle w).lastDir = .write := by decide +kernel
theorem witness_GateCommandIsHeld :
    Instr.busCycle.opcode.needsGate = true ∧ midTransaction.mode = .ready ∧ midTransaction.gateOwner = .freerun := by
  decide +kernel

/-- Both agents want the free gate: the worker waits for it, and a `BUS_CYCLE` waits at the port. -/
def contended (choice : Agent) : State :=
  { start small { quiet [0x1005#40] with schedule := [choice] } with
    frRunning := true, frStage := .acquire, cmds := [[0x20#8]] }

theorem witness_GrantOrderIsOpen :
    fetch (contended .host) = some (.ok .busCycle) ∧ fetch (contended .freerun) = some (.ok .busCycle) ∧
    Instr.busCycle.opcode.needsGate = true ∧ (contended .host).mode = .ready ∧
    (contended .host).gateOwner = .free ∧ (contended .host).frRunning = true ∧
    (contended .host).frStage = .acquire ∧ (contended .host).env.schedule = .host :: [] ∧
    (contended .freerun).env.schedule = .freerun :: [] := by
  refine ⟨rfl, rfl, rfl, by decide +kernel, by decide +kernel, rfl, rfl, by decide +kernel, by decide +kernel⟩
theorem witness_FreeRunControlCompletes :
    (start small (quiet [])).mode = .ready ∧ (start small (quiet [])).frRunning = false ∧
    midTransaction.mode = .ready ∧ midTransaction.frRunning = true := by decide +kernel
theorem witness_WorkerRunsTheTransaction :
    (contended .host).frStage = .acquire ∧ (contended .host).gateOwner = .free := ⟨rfl, rfl⟩
theorem witness_WorkerLoopBoundary :
    let s := start small (quiet [])
    ({ s with frCancel := true } : State).frStage = .boundary ∧ s.frStage = .boundary ∧ s.frCancel = false ∧
    ({ s with frStage := .release, gateOwner := .freerun } : State).gateOwner = .freerun := ⟨rfl, rfl, rfl, rfl⟩
theorem witness_CancelReadOnlyAtBoundary :
    midTransaction.frStage ≠ .boundary ∧ midTransaction.frStage ≠ .stopping := by decide +kernel
theorem witness_WorkerFailureStops :
    let s : State := { start badRole (quiet []) with frRunning := true, frStage := .acquire }
    s.frStage = .acquire ∧ s.gateOwner = .free ∧ s.phase = .idle ∧ s.rmStatus ≠ .ok ∧ s.rmStatus ≠ .transportError := by
  decide +kernel
/-- A worker about to issue the actions of a transaction on three bound slots, the transport failing at the given call. -/
def workerAt (st : TxnStage) (phase : Phase) (calls : Nat) : State :=
  { start k3 (envOf (List.replicate (3 + calls) false ++ [true]) []) with
    cfg := { k5 with nslots := 4, bound := 0xB#4 }, frRunning := true, frStage := .txn st, gateOwner := .freerun,
    phase := phase, curDir := .read }

/-- A failure at the first slot of the `Floating` tri-state, and one at the last slot of the clock's last drive. -/
theorem witness_WorkerFailureStops_transport :
    let a := workerAt .floatBus .floating 0
    let b := workerAt .readClockLow .readDrive 2
    arbitrated a = true ∧ checkRoleMap a.cfg = none ∧ TxnStage.floatBus.slots a.cfg = [] ++ 0 :: [1, 3] ∧
    a.env.transport = List.replicate ([] : List Nat).length false ++ true :: [] ∧
    arbitrated b = true ∧ checkRoleMap b.cfg = none ∧ TxnStage.readClockLow.slots b.cfg = [1, 3] ++ 0 :: [] ∧
    b.env.transport = List.replicate [1, 3].length false ++ true :: [] := by decide +kernel
theorem witness_GateIsReleased : arbitrated midTransaction = true ∧ midTransaction.frStage.holdsGate = true := by
  decide +kernel
theorem witness_ReadRegAnswers :
    (start k3 (quiet [])).cfg.nslots ≤ 4 ∧ (start k3 (quiet [])).cfg.roleMap.addressBits.length < 64 := by
  decide +kernel
theorem witness_FailedModeRefuses :
    failedBlock.mode = .failed ∧ Instr.freeRunStart.wellFormed failedBlock.cfg.nslots = true ∧
    (∀ r, Instr.freeRunStart ≠ .readReg r) ∧
    fetch ({ failedBlock with cmds := [[0x17#8]] } : State) = some (.error (.unknownOpcode 0x17#8)) ∧
    step failedBlock = .next (stepped failedBlock) ∧ arbitrated failedBlock = true := by
  refine ⟨by decide +kernel, rfl, fun r h => (by cases h), rfl, rfl, by decide +kernel⟩

/-- An undecodable command at the port of a ready block, beside a worker inside a transaction, and of a failed one. -/
theorem witness_IllegalCommandAnswered :
    let s : State := { midTransaction with cmds := [[0x17#8]], env := { quiet [] with schedule := [.host] } }
    let f : State := { failedBlock with cmds := [[]] }
    fetch s = some (.error (.unknownOpcode 0x17#8)) ∧ workerReady s = true ∧ s.env.schedule = .host :: [] ∧
    s.mode = .ready ∧ s.gateOwner ≠ .host ∧
    fetch f = some (.error .noOpcode) ∧ workerReady f = false ∧ f.mode = .failed := by
  refine ⟨rfl, rfl, rfl, by decide +kernel, by decide +kernel, rfl, by decide +kernel, by decide +kernel⟩
theorem witness_OneResponsePerCommand :
    modeRecorded (start small (quiet [])) = true ∧
    exec .read (start small (quiet [])) = .next (after .read (start small (quiet []))) := by
  refine ⟨by decide +kernel, rfl⟩
/-- A `BUS_CYCLE` at the port of a block whose worker is stopped. -/
def alone : State := { start small (quiet []) with cmds := [[0x20#8]] }

/-- The command that waits decodes, in each of the states below. -/
theorem witness_StepRunsDecodedCommand_fetch :
    fetch alone = some (.ok .busCycle) ∧ fetch (contended .host) = some (.ok .busCycle) := ⟨rfl, rfl⟩
/-- Only the host port can move; both can, for each answer of the schedule and for one used up. -/
theorem witness_StepRunsDecodedCommand :
    (hostReady alone, workerReady alone) = (true, false) ∧
    [contended .host, contended .freerun, { contended .host with env := quiet [] }].map
      (fun s => (hostReady s, workerReady s, s.env.schedule)) =
      [(true, true, [.host]), (true, true, [.freerun]), (true, true, [])] := by decide +kernel
/-- Only the worker can move, with no command waiting and with one held at the gate; neither can. -/
theorem witness_StepRunsDecodedCommand_others :
    [midTransaction, { midTransaction with cmds := [[0x20#8]] }, start small (quiet [])].map
      (fun s => (hostReady s, workerReady s)) = [(false, true), (false, true), (false, false)] := by decide +kernel

theorem witness_ArbitrationKept :
    arbitrated midTransaction = true ∧ step midTransaction = .next (stepped midTransaction) :=
  ⟨by decide +kernel, witness_step⟩
theorem witness_TransactionsNeverInterleave :
    arbitrated midTransaction = true ∧
    followPhases (some (.idle, .free)) midTransaction.trace =
      some (midTransaction.phase, if midTransaction.phase = .idle then .free else midTransaction.gateOwner) ∧
    step midTransaction = .next (stepped midTransaction) :=
  ⟨by decide +kernel, by decide +kernel, witness_step⟩
theorem witness_CountersFollowTrace :
    midTransaction.seq = BitVec.ofNat 32 (phaseCount midTransaction.trace) ∧
    numberedFrom 0 midTransaction.trace = true ∧
    midTransaction.txnCount = BitVec.ofNat 32 (recordCount midTransaction.trace) ∧
    (lastRecordOf none midTransaction.trace =
      if midTransaction.lastValid then
        some (midTransaction.lastAddr, midTransaction.lastValue, midTransaction.lastDir)
      else none) ∧
    step midTransaction = .next (stepped midTransaction) :=
  ⟨by decide +kernel, by decide +kernel, by decide +kernel, by decide +kernel, witness_step⟩
theorem witness_MemoryFollowsTrace :
    midTransaction.mem = replayMem (Memory.ofCells midTransaction.cfg.mem0) midTransaction.trace ∧
    readsAgree (Memory.ofCells midTransaction.cfg.mem0) midTransaction.trace = true ∧
    step midTransaction = .next (stepped midTransaction) :=
  ⟨by decide +kernel, by decide +kernel, witness_step⟩
theorem witness_PortsFollowTrace :
    midTransaction.ports = replayPorts (PerSlot.tabulate fun _ => Port.unknown) midTransaction.trace ∧
    unboundUntouched midTransaction = true ∧ step midTransaction = .next (stepped midTransaction) :=
  ⟨by decide +kernel, by decide +kernel, witness_step⟩
theorem witness_MemoryCanonical :
    midTransaction.mem.wf = true ∧ step midTransaction = .next (stepped midTransaction) :=
  ⟨by decide +kernel, witness_step⟩
theorem witness_MemoryCanonical_reads :
    Memory.wf [(5, 0xA5#8)] = true ∧ (([(5, 0xA5#8), (0, 0#8)] : List (Nat × Byte)).map Prod.fst).Nodup ∧
    (5, 0xA5#8) ∈ ([(5, 0xA5#8), (0, 0#8)] : List (Nat × Byte)) ∧
    6 ∉ ([(5, 0xA5#8), (0, 0#8)] : List (Nat × Byte)).map Prod.fst := by decide +kernel
theorem witness_ModeRecordKept :
    modeRecorded midTransaction = true ∧ modeRecorded failedBlock = true ∧
    step midTransaction = .next (stepped midTransaction) :=
  ⟨by decide +kernel, by decide +kernel, witness_step⟩

end Sys2Proof.Tests
end

/-! ## What a step is made of

A step is a chain of elementary updates of the state. The kinds of update are listed once (`Update`), and every
operation of the block is shown once to be a chain of them (`step_reaches`). An invariant then needs one lemma per
kind of update. -/

namespace Sys2Proof.Machine

/-! ### The elementary updates -/

/-- `t` differs from `s` only in registers that no rule ties to the trace, in the gate, the worker's place, the port's
queues and the environment. -/
def RegistersOnly (s t : State) : Prop :=
  t = { s with
    curAddr := t.curAddr, curDir := t.curDir, curValue := t.curValue, lastStatus := t.lastStatus,
    frStatus := t.frStatus, errPin := t.errPin, errSlot := t.errSlot, errPrim := t.errPrim, errSrc := t.errSrc,
    busUnknown := t.busUnknown, gateOwner := t.gateOwner, frRunning := t.frRunning, frCancel := t.frCancel,
    frStage := t.frStage, cmds := t.cmds, responses := t.responses, env := t.env }

/-- One elementary update of the state. The configuration, `MODE` and the RoleMap check registers are in none of them,
and `LAST_STATUS` keeps its value in `FAILED` mode (R20, R26, R33, R300). -/
inductive Update : State → State → Prop
  /-- Registers outside the trace's bookkeeping. -/
  | registers (s t : State) (frame : RegistersOnly s t) (status : s.mode = .failed → t.lastStatus = s.lastStatus) :
      Update s t
  /-- A change of `PHASE`, numbered in `SEQ` (R30, R201). -/
  | phase (s : State) (p : Phase) (change : s.phase ≠ p) : Update s (setPhase p s)
  /-- A primitive on a bound slot completed (R71). -/
  | completed (s : State) (k : Nat) (p : Prim) (e : Env) (bound : s.cfg.isBound k = true) :
      Update s (afterPrim k p .ok (p.apply (s.ports.get k)) e s)
  /-- A `read_input` on a bound slot returned (R71, R72). -/
  | returned (s : State) (k : Nat) (m : LMask) (e : Env) (bound : s.cfg.isBound k = true) :
      Update s (afterPrim k .readInput (.levels m) (s.ports.get k) e s)
  /-- A primitive on a bound slot raised (R73). -/
  | spoiled (s : State) (k : Nat) (p : Prim) (e : Env) (bound : s.cfg.isBound k = true) :
      Update s (afterPrim k p .transportError (p.spoil (s.ports.get k)) e s)
  /-- `MemRead` (R75). -/
  | memRead (s : State) (a : Nat) : Update s (memRead a s).2
  /-- `MemWrite` (R75). -/
  | memWrite (s : State) (a : Nat) (v : Byte) : Update s (memWrite a v s)
  /-- The record of `Settled` (R208). -/
  | record (s : State) : Update s (settleRecord s)

/-- The state `t` comes from `s` by a chain of elementary updates. -/
def Reaches (s t : State) : Prop := Relation.ReflTransGen Update s t

theorem Reaches.refl (s : State) : Reaches s s := Relation.ReflTransGen.refl

theorem Reaches.trans {s t u : State} (h : Reaches s t) (h' : Reaches t u) : Reaches s u :=
  Relation.ReflTransGen.trans h h'

theorem Update.reaches {s t : State} (h : Update s t) : Reaches s t := Relation.ReflTransGen.single h

theorem registers_reaches {s t : State} (frame : RegistersOnly s t)
    (status : s.mode = .failed → t.lastStatus = s.lastStatus) : Reaches s t :=
  (Update.registers s t frame status).reaches

/-- What every elementary update keeps, a chain of them keeps. -/
theorem Reaches.keeps {P : State → Prop} (hP : ∀ s t, Update s t → P s → P t) {s t : State} (h : Reaches s t)
    (hs : P s) : P t := by
  induction h with
  | refl => exact hs
  | tail _ hu ih => exact hP _ _ hu ih

/-! ### What no update changes -/

/-- The fields fixed at reset are equal in the two states, and so is `LAST_STATUS` in `FAILED` mode. -/
structure SameFixed (s t : State) : Prop where
  cfg : t.cfg = s.cfg
  mode : t.mode = s.mode
  rmStatus : t.rmStatus = s.rmStatus
  rmErrPin : t.rmErrPin = s.rmErrPin
  rmErrSlot : t.rmErrSlot = s.rmErrSlot
  failedStatus : s.mode = .failed → t.lastStatus = s.lastStatus

theorem Update.sameFixed {s t : State} (h : Update s t) : SameFixed s t := by
  cases h with
  | registers _ frame status =>
    rw [RegistersOnly] at frame
    exact ⟨by rw [frame], by rw [frame], by rw [frame], by rw [frame], by rw [frame], status⟩
  | phase p _ => constructor <;> simp
  | completed k p e _ => constructor <;> simp
  | returned k m e _ => constructor <;> simp
  | spoiled k p e _ => constructor <;> simp
  | memRead a => exact ⟨rfl, rfl, rfl, rfl, rfl, fun _ => rfl⟩
  | memWrite a v => constructor <;> simp
  | record => constructor <;> simp

theorem SameFixed.trans {s t u : State} (h : SameFixed s t) (h' : SameFixed t u) : SameFixed s u where
  cfg := h'.cfg.trans h.cfg
  mode := h'.mode.trans h.mode
  rmStatus := h'.rmStatus.trans h.rmStatus
  rmErrPin := h'.rmErrPin.trans h.rmErrPin
  rmErrSlot := h'.rmErrSlot.trans h.rmErrSlot
  failedStatus := fun hm => (h'.failedStatus (h.mode.trans hm)).trans (h.failedStatus hm)

theorem Reaches.sameFixed {s t : State} (h : Reaches s t) : SameFixed s t :=
  h.keeps (fun _ _ hu hs => hs.trans hu.sameFixed) ⟨rfl, rfl, rfl, rfl, rfl, fun _ => rfl⟩

/-! ### Phases, gate, errors, responses -/

theorem setPhase_reaches (p : Phase) (s : State) : Reaches s (setPhase p s) := by
  by_cases h : s.phase = p
  · rw [setPhase_same p s h]
    exact Reaches.refl s
  · exact (Update.phase s p h).reaches

theorem releaseGate_reaches (a : Agent) (s : State) : Reaches s (releaseGate a s) := by
  unfold releaseGate
  split
  · exact registers_reaches rfl fun _ => rfl
  · exact Reaches.refl s

theorem abandonTxn_reaches (a : Agent) (s : State) : Reaches s (abandonTxn a s) := by
  unfold abandonTxn
  split
  · exact (setPhase_reaches .idle s).trans (releaseGate_reaches a _)
  · exact Reaches.refl s

theorem respond_reaches (b : List Byte) (s : State) : Reaches s (respond b s) :=
  registers_reaches rfl fun _ => rfl

/-- In `READY` mode a command may set `LAST_STATUS`. -/
theorem complete_reaches (result : List Byte) {s : State} (hm : s.mode = .ready) : Reaches s (complete result s) :=
  registers_reaches rfl fun hf => absurd (hm.symm.trans hf) nofun

theorem raiseHost_reaches (r : Raise) {s : State} (hm : s.mode = .ready) : Reaches s (raiseHost r s) := by
  have record : Reaches s { recordError .host r s with lastStatus := r.status } :=
    registers_reaches rfl fun hf => absurd (hm.symm.trans hf) nofun
  exact (record.trans (abandonTxn_reaches .host _)).trans (respond_reaches _ _)

theorem raiseWorker_reaches (r : Raise) (s : State) : Reaches s (raiseWorker r s) := by
  have record : Reaches s { recordError .freerun r s with frStatus := r.status } :=
    registers_reaches rfl fun _ => rfl
  exact record.trans (abandonTxn_reaches .freerun _)

theorem raiseIllegal_reaches (s : State) : Reaches s (raiseIllegal s) := by
  unfold raiseIllegal
  cases hm : s.mode with
  | ready => exact raiseHost_reaches illegalCommand hm
  | failed => exact respond_reaches _ s

theorem whenReady_reaches {s : State} {body : State → State} (h : s.mode = .ready → Reaches s (body s)) :
    Reaches s (whenReady s body) := by
  rcases whenReady_cases s body with ⟨hm, hw⟩ | ⟨_, hw⟩ <;> rw [hw]
  · exact h hm
  · exact respond_reaches _ s

/-- A gate command takes only such updates as its body does. -/
theorem withGate_reaches {s : State} {body : State → Run (List Byte)} (hm : s.mode = .ready)
    (h : ∀ u, Reaches u (body u).state) : Reaches s (withGate s body) := by
  have taken : Reaches s { s with gateOwner := .host } := registers_reaches rfl fun _ => rfl
  have run := taken.trans (h { s with gateOwner := .host })
  rcases withGate_cases s body with ⟨_, hw⟩ | ⟨_, result, t, hb, hw⟩ | ⟨_, e, t, hb, hw⟩ <;> rw [hw]
  · exact Reaches.refl s
  · rw [hb, Run.state_done] at run
    have released := run.trans (releaseGate_reaches .host t)
    exact released.trans (complete_reaches result (released.sameFixed.mode.trans hm))
  · rw [hb, Run.state_error] at run
    exact run.trans (raiseHost_reaches e (run.sameFixed.mode.trans hm))

/-! ### Device primitives and vector operations -/

/-- One operation after another. -/
theorem andThen_reaches {α β : Type} {s : State} {r : Run α} {f : α → State → Run β} (h : Reaches s r.state)
    (hf : ∀ a t, Reaches s t → Reaches t (f a t).state) : Reaches s (r.andThen f).state := by
  cases r with
  | done a t => exact h.trans (hf a t h)
  | error e t => exact h

theorem issue_reaches {s : State} {k : Nat} (hk : s.cfg.isBound k = true) (p : Prim) :
    Reaches s (issue k p s).state := by
  rcases issue_cases k p s with ⟨e, _, h⟩ | ⟨e, _, h⟩ <;> rw [h]
  · exact (Update.completed s k p e hk).reaches
  · exact (Update.spoiled s k p e hk).reaches

theorem issueRead_reaches {s : State} {k : Nat} (hk : s.cfg.isBound k = true) : Reaches s (issueRead k s).state := by
  rcases issueRead_cases k s with ⟨_, i, e, _, _, h⟩ | ⟨e, _, h⟩ <;> rw [h]
  · exact (Update.returned s k _ e hk).reaches
  · exact (Update.spoiled s k .readInput e hk).reaches

theorem issueAll_reaches (p : Nat → Prim) {ks : List Nat} {s : State} (hks : ∀ k ∈ ks, s.cfg.isBound k = true) :
    Reaches s (issueAll p ks s).state := by
  induction ks generalizing s with
  | nil => exact Reaches.refl s
  | cons k ks ih =>
    refine andThen_reaches (issue_reaches (hks k (by simp)) (p k)) fun _ t ht => ih fun j hj => ?_
    rw [ht.sameFixed.cfg]
    exact hks j (by simp [hj])

theorem readAll_reaches {ks : List Nat} (I : PerSlot LMask) {s : State} (hks : ∀ k ∈ ks, s.cfg.isBound k = true) :
    Reaches s (readAll ks I s).state := by
  induction ks generalizing s I with
  | nil => exact Reaches.refl s
  | cons k ks ih =>
    refine andThen_reaches (issueRead_reaches (hks k (by simp))) fun _ t ht => ih _ fun j hj => ?_
    rw [ht.sameFixed.cfg]
    exact hks j (by simp [hj])

theorem settle_reaches (op : MaskOp) (s : State) : Reaches s (op.settle s) := by
  cases op with
  | tristate => exact registers_reaches rfl fun _ => rfl
  | output => exact Reaches.refl s
  | supplyPins => exact Reaches.refl s
  | groundPins => exact Reaches.refl s

theorem vecWrite_reaches (op : MaskOp) (m : VMask) {order : List Nat} {s : State}
    (ho : ∀ k ∈ order, s.cfg.isBound k = true) : Reaches s (vecWrite op m order s).state := by
  unfold vecWrite
  cases fanOut s.cfg m with
  | error e => exact Reaches.refl s
  | ok L => exact andThen_reaches (issueAll_reaches _ ho) fun _ t _ => settle_reaches op t

theorem vecRead_reaches (s : State) : Reaches s (vecRead s).state :=
  andThen_reaches (readAll_reaches _ fun k hk => (s.cfg.mem_boundSlots k).mp hk) fun _ t _ => Reaches.refl t

/-! ### Transactions -/

theorem precheck_reaches (s : State) : Reaches s (precheck s).state := by
  unfold precheck
  split
  · exact setPhase_reaches .floating s
  · exact Reaches.refl s

theorem triState_reaches (m : VMask) (s : State) : Reaches s (vecWrite .tristate m s.cfg.boundSlots s).state :=
  vecWrite_reaches _ _ fun k hk => (s.cfg.mem_boundSlots k).mp hk

theorem driveClock_reaches (clk : Bool) (v : Option Byte) (s : State) : Reaches s (driveClock clk v s).state :=
  vecWrite_reaches _ _ fun k hk => (mem_clockLastSlots s.cfg k).mp hk

theorem sampleBus_reaches (s : State) : Reaches s (sampleBus s).state :=
  andThen_reaches (vecRead_reaches s) fun _ _ _ => registers_reaches rfl fun _ => rfl

theorem writeSample_reaches (s : State) : Reaches s (writeSample s).state :=
  andThen_reaches (vecRead_reaches s) fun _ _ _ => registers_reaches rfl fun _ => rfl

theorem readFetch_reaches (s : State) : Reaches s (readFetch s).state :=
  (Update.memRead s s.curAddr.toNat).reaches.trans (registers_reaches rfl fun _ => rfl)

theorem branchPhase_reaches (s : State) : Reaches s (branchPhase s) := by
  unfold branchPhase
  split <;> exact setPhase_reaches _ s

theorem writeStore_reaches (s : State) : Reaches s (writeStore s).state :=
  (Update.memWrite s s.curAddr.toNat s.curValue).reaches

theorem TxnStage.run_reaches (st : TxnStage) (s : State) : Reaches s (st.run s).state := by
  cases st with
  | precheck => exact precheck_reaches s
  | floatBus => exact triState_reaches _ s
  | enterSampled => exact setPhase_reaches .sampled s
  | sample => exact sampleBus_reaches s
  | branch => exact branchPhase_reaches s
  | readEnable => exact triState_reaches _ s
  | readFetch => exact readFetch_reaches s
  | readClockHigh => exact driveClock_reaches _ _ s
  | readClockLow => exact driveClock_reaches _ _ s
  | writeClockHigh => exact driveClock_reaches _ _ s
  | writeCapture => exact writeSample_reaches s
  | writeStore => exact writeStore_reaches s
  | writeClockLow => exact driveClock_reaches _ _ s
  | enterSettled => exact setPhase_reaches .settled s
  | settle => exact (Update.record s).reaches
  | enterIdle => exact setPhase_reaches .idle s

theorem readDrive_reaches (s : State) : Reaches s (readDrive s).state :=
  andThen_reaches (triState_reaches _ s) fun _ t _ =>
    andThen_reaches (readFetch_reaches t) fun _ u _ =>
      andThen_reaches (driveClock_reaches _ _ u) fun _ v _ => driveClock_reaches _ _ v

theorem writeCapture_reaches (s : State) : Reaches s (writeCapture s).state :=
  andThen_reaches (driveClock_reaches _ _ s) fun _ t _ =>
    andThen_reaches (writeSample_reaches t) fun _ u _ =>
      andThen_reaches (writeStore_reaches u) fun _ v _ => driveClock_reaches _ _ v

/-- The end of a transaction (R208). -/
theorem settled_reaches (s : State) : Reaches s (setPhase .idle (settleRecord (setPhase .settled s))) :=
  ((setPhase_reaches .settled s).trans (Update.record _).reaches).trans (setPhase_reaches .idle _)

theorem transaction_reaches (s : State) : Reaches s (transaction s).state := by
  refine andThen_reaches (precheck_reaches s) fun _ t _ => ?_
  refine andThen_reaches (triState_reaches _ t) fun _ u _ => ?_
  refine andThen_reaches ((setPhase_reaches .sampled u).trans (sampleBus_reaches _)) fun _ v _ => ?_
  refine andThen_reaches ?_ fun _ w _ => settled_reaches w
  cases v.curDir with
  | read => exact (branchPhase_reaches v).trans (readDrive_reaches _)
  | write => exact (branchPhase_reaches v).trans (writeCapture_reaches _)

/-! ### Commands -/

theorem maskedWrite_reaches (op : MaskOp) (m : VMask) (s : State) : Reaches s (maskedWrite op m s) :=
  whenReady_reaches fun hm => withGate_reaches hm fun u =>
    andThen_reaches (vecWrite_reaches op m fun k hk => (u.cfg.mem_boundSlots k).mp hk) fun _ t _ => Reaches.refl t

theorem supplyWrite_reaches (p : Prim) (s : State) : Reaches s (supplyWrite p s) :=
  whenReady_reaches fun hm => withGate_reaches hm fun u =>
    andThen_reaches (issueAll_reaches _ fun k hk => (u.cfg.mem_boundSlots k).mp hk) fun _ t _ => Reaches.refl t

theorem execResolve_reaches (vpin : BitVec 16) (s : State) :
    ∃ t, execResolve vpin s = .next t ∧ Reaches s t := by
  refine ⟨_, rfl, whenReady_reaches fun hm => ?_⟩
  cases res s.cfg (Int.ofNat vpin.toNat) with
  | none => exact raiseHost_reaches _ hm
  | some kl => exact complete_reaches _ hm

theorem execPinsForSlot_reaches (slot : Byte) (s : State) :
    ∃ t, execPinsForSlot slot s = .next t ∧ Reaches s t := by
  refine ⟨_, rfl, ?_⟩
  split
  · exact whenReady_reaches fun hm => complete_reaches _ hm
  · exact raiseIllegal_reaches s

theorem execFanOut_reaches (m : VMask) (s : State) : ∃ t, execFanOut m s = .next t ∧ Reaches s t := by
  refine ⟨_, rfl, whenReady_reaches fun hm => ?_⟩
  cases fanOut s.cfg m with
  | error e => exact raiseHost_reaches e hm
  | ok L => exact complete_reaches _ hm

theorem execRead_reaches (s : State) : ∃ t, execRead s = .next t ∧ Reaches s t :=
  ⟨_, rfl, whenReady_reaches fun hm => withGate_reaches hm fun u =>
    andThen_reaches (vecRead_reaches u) fun _ t _ => Reaches.refl t⟩

theorem execBusCycle_reaches (s : State) : ∃ t, execBusCycle s = .next t ∧ Reaches s t :=
  ⟨_, rfl, whenReady_reaches fun hm => withGate_reaches hm fun u =>
    andThen_reaches (transaction_reaches u) fun _ t _ => Reaches.refl t⟩

theorem execFreeRunStart_reaches (s : State) : ∃ t, execFreeRunStart s = .next t ∧ Reaches s t := by
  refine ⟨_, rfl, whenReady_reaches fun hm => ?_⟩
  have started : Reaches s { s with frCancel := false, frStatus := .ok, frRunning := true, frStage := .boundary } :=
    registers_reaches rfl fun _ => rfl
  split
  · exact complete_reaches [] hm
  · exact started.trans (complete_reaches [] hm)

theorem execFreeRunCancel_reaches (s : State) : ∃ t, execFreeRunCancel s = .next t ∧ Reaches s t := by
  refine ⟨_, rfl, whenReady_reaches fun hm => ?_⟩
  have cancelled : Reaches s { s with frCancel := true } := registers_reaches rfl fun _ => rfl
  split
  · exact cancelled.trans (complete_reaches [] hm)
  · exact complete_reaches [] hm

/-- Every command answers a next state, a chain of updates away (R280, R293). -/
theorem exec_reaches (i : Instr) (s : State) : ∃ t, exec i s = .next t ∧ Reaches s t := by
  cases i with
  | resolve vpin => exact execResolve_reaches vpin s
  | pinsForSlot slot => exact execPinsForSlot_reaches slot s
  | fanOut m => exact execFanOut_reaches m s
  | aggregate I => exact ⟨_, rfl, whenReady_reaches fun hm => complete_reaches _ hm⟩
  | drive m => exact ⟨_, rfl, maskedWrite_reaches .output m s⟩
  | triState m => exact ⟨_, rfl, maskedWrite_reaches .tristate m s⟩
  | read => exact execRead_reaches s
  | assignGround m => exact ⟨_, rfl, maskedWrite_reaches .groundPins m s⟩
  | assignSupplyPins m => exact ⟨_, rfl, maskedWrite_reaches .supplyPins m s⟩
  | setSupplyVoltage level => exact ⟨_, rfl, supplyWrite_reaches (.setSupplyVoltage level.toInt) s⟩
  | enableSupply on => exact ⟨_, rfl, supplyWrite_reaches (.enableSupply on) s⟩
  | busCycle => exact execBusCycle_reaches s
  | freeRunStart => exact execFreeRunStart_reaches s
  | freeRunCancel => exact execFreeRunCancel_reaches s
  | readReg r => exact ⟨_, rfl, respond_reaches _ s⟩

/-! ### Steps -/

theorem workerStop_reaches (s : State) : Reaches s (workerStop s) :=
  registers_reaches rfl fun _ => rfl

/-- The worker's place is no part of the trace's bookkeeping. -/
theorem frStage_reaches (w : WorkerStage) (s : State) : Reaches s { s with frStage := w } :=
  registers_reaches rfl fun _ => rfl

theorem workerAfter_reaches (st : TxnStage) {s : State} {r : Run Unit} (h : Reaches s r.state) :
    Reaches s (workerAfter st r) := by
  cases r with
  | done a t =>
    simp only [workerAfter]
    split <;> exact h.trans (frStage_reaches _ t)
  | error e t => exact (h.trans (raiseWorker_reaches e t)).trans (frStage_reaches _ _)

theorem workerStep_reaches (s : State) : Reaches s (workerStep s) := by
  unfold workerStep
  cases s.frStage with
  | boundary =>
    dsimp only
    split
    · exact workerStop_reaches s
    · exact frStage_reaches _ s
  | acquire =>
    cases s.gateOwner with
    | free => exact registers_reaches rfl fun _ => rfl
    | host => exact Reaches.refl s
    | freerun => exact Reaches.refl s
  | txn st => exact workerAfter_reaches st (st.run_reaches s)
  | release => exact (releaseGate_reaches .freerun s).trans (frStage_reaches _ _)
  | report => exact registers_reaches rfl fun _ => rfl
  | stopping => exact workerStop_reaches s

theorem hostStep_reaches (s : State) : ∃ t, hostStep s = .next t ∧ Reaches s t := by
  unfold hostStep
  cases fetch s with
  | none => exact ⟨s, rfl, Reaches.refl s⟩
  | some d =>
    cases d with
    | ok i => exact exec_reaches i s
    | error e => exact ⟨_, rfl, raiseIllegal_reaches s⟩

/-- Every step answers a next state, a chain of updates away. -/
theorem step_reaches (s : State) : ∃ t, step s = .next t ∧ Reaches s t := by
  have drawn : ∀ e : Env, Reaches s { s with env := e } := fun e => registers_reaches rfl fun _ => rfl
  rcases step_cases s with ⟨_, _, hs⟩ | ⟨_, e, hs⟩ | ⟨_, e, hs⟩ <;> rw [hs]
  · exact ⟨s, rfl, Reaches.refl s⟩
  · obtain ⟨t, ht, hr⟩ := hostStep_reaches { s with env := e }
    exact ⟨t, ht, (drawn e).trans hr⟩
  · exact ⟨_, rfl, (drawn e).trans (workerStep_reaches _)⟩

theorem reaches_of_step {s t : State} (h : step s = .next t) : Reaches s t := by
  obtain ⟨t', ht', hr⟩ := step_reaches s
  rw [h] at ht'
  cases ht'
  exact hr

/-- Settles O7: no elementary update writes a field fixed at reset, and a step is a chain of them. -/
theorem configurationNeverChanges : Obligations.ConfigurationNeverChanges := by
  intro s t h
  obtain ⟨hcfg, hmode, hst, hpin, hslot, _⟩ := (reaches_of_step h).sameFixed
  exact ⟨hcfg, hmode, hst, hpin, hslot⟩

end Sys2Proof.Machine

/-! ## The counters and the trace

`SEQ`, `TXN_COUNT` and `LAST_*` are functions of the trace (R29, R30). Each function reads a longer trace through its
value on the shorter one, so an update is judged by the one event it appends. -/

namespace Sys2Proof.Machine

/-! ### The functions of a trace, read on a longer one -/

/-- The event is no phase event and no record: it is a primitive or a memory call. -/
def Event.isUncounted : Event → Bool
  | .dev _ _ _ => true
  | .memRead _ _ => true
  | .memWrite _ _ => true
  | .phase _ _ _ _ => false
  | .record _ _ _ => false

theorem phaseCount_append (es fs : List Event) : phaseCount (es ++ fs) = phaseCount es + phaseCount fs := by
  induction es with
  | nil => simp [phaseCount]
  | cons e es ih => cases e <;> simp [phaseCount, ih, Nat.add_right_comm]

theorem recordCount_append (es fs : List Event) : recordCount (es ++ fs) = recordCount es + recordCount fs := by
  induction es with
  | nil => simp [recordCount]
  | cons e es ih => cases e <;> simp [recordCount, ih, Nat.add_right_comm]

/-- The events after a trace are numbered from the number of its phase events on. -/
theorem numberedFrom_append (n : Nat) (es fs : List Event) :
    numberedFrom n (es ++ fs) = (numberedFrom n es && numberedFrom (n + phaseCount es) fs) := by
  induction es generalizing n with
  | nil => simp [numberedFrom, phaseCount]
  | cons e es ih =>
    cases e with
    | phase q src dst owner => simp [numberedFrom, phaseCount, ih, Bool.and_assoc, Nat.add_assoc, Nat.add_comm 1]
    | dev k p r => exact ih n
    | memRead a v => exact ih n
    | memWrite a v => exact ih n
    | record a v d => exact ih n

theorem lastRecordOf_append (last : Option (Word × Byte × Direction)) (es fs : List Event) :
    lastRecordOf last (es ++ fs) = lastRecordOf (lastRecordOf last es) fs := by
  induction es generalizing last with
  | nil => rfl
  | cons e es ih => cases e <;> exact ih _

/-! ### The invariant -/

/-- `SEQ` counts the trace's phase events and numbers them, `TXN_COUNT` counts its records, and `LAST_*` hold its last
record (R29, R30, R201). -/
structure CountersFollow (s : State) : Prop where
  seq : s.seq = BitVec.ofNat 32 (phaseCount s.trace)
  numbered : numberedFrom 0 s.trace = true
  txnCount : s.txnCount = BitVec.ofNat 32 (recordCount s.trace)
  last : lastRecordOf none s.trace = if s.lastValid then some (s.lastAddr, s.lastValue, s.lastDir) else none

/-- An event that is no phase event and no record leaves every count as it was. -/
theorem CountersFollow.logged {s : State} (hs : CountersFollow s) {e : Event} (he : e.isUncounted = true) :
    CountersFollow { s with trace := s.trace ++ [e] } := by
  have counts : phaseCount [e] = 0 ∧ recordCount [e] = 0 ∧ (∀ n, numberedFrom n [e] = true) ∧
      ∀ last, lastRecordOf last [e] = last := by
    cases e with
    | dev k p r => exact ⟨rfl, rfl, fun _ => rfl, fun _ => rfl⟩
    | memRead a v => exact ⟨rfl, rfl, fun _ => rfl, fun _ => rfl⟩
    | memWrite a v => exact ⟨rfl, rfl, fun _ => rfl, fun _ => rfl⟩
    | phase q src dst owner => exact absurd he nofun
    | record a v d => exact absurd he nofun
  obtain ⟨noPhase, noRecord, numbered, last⟩ := counts
  constructor
  · simp [phaseCount_append, noPhase, hs.seq]
  · simp [numberedFrom_append, numbered, hs.numbered]
  · simp [recordCount_append, noRecord, hs.txnCount]
  · simp [lastRecordOf_append, last, hs.last]

theorem CountersFollow.afterPrim {s : State} (hs : CountersFollow s) (k : Nat) (p : Prim) (r : PrimResult) (d : Port)
    (e : Env) : CountersFollow (afterPrim k p r d e s) :=
  have h := hs.logged (e := .dev k p r) rfl
  ⟨h.seq, h.numbered, h.txnCount, h.last⟩

theorem CountersFollow.memWrite {s : State} (hs : CountersFollow s) (a : Nat) (v : Byte) :
    CountersFollow (memWrite a v s) :=
  have h := hs.logged (e := .memWrite a v) rfl
  ⟨h.seq, h.numbered, h.txnCount, h.last⟩

/-- A change of phase is counted and numbered. -/
theorem CountersFollow.setPhase {s : State} (hs : CountersFollow s) (p : Phase) : CountersFollow (setPhase p s) := by
  by_cases h : s.phase = p
  · rwa [setPhase_same p s h]
  · have hseq : s.seq + 1#32 = BitVec.ofNat 32 (phaseCount s.trace + 1) := by rw [hs.seq, BitVec.ofNat_add]
    rw [setPhase_change p s h]
    constructor
    · simp [phaseCount_append, phaseCount, hseq]
    · simp [numberedFrom_append, numberedFrom, hs.numbered, hseq]
    · simp [recordCount_append, recordCount, hs.txnCount]
    · simp [lastRecordOf_append, lastRecordOf, hs.last]

/-- A record is counted, and becomes the last one. -/
theorem CountersFollow.settleRecord {s : State} (hs : CountersFollow s) : CountersFollow (settleRecord s) := by
  constructor
  · simp [phaseCount_append, phaseCount, hs.seq]
  · simp [numberedFrom_append, numberedFrom, hs.numbered]
  · simp [recordCount_append, recordCount, hs.txnCount, BitVec.ofNat_add]
  · simp [lastRecordOf_append, lastRecordOf]

/-- Every elementary update keeps the counters at the trace's numbers. -/
theorem CountersFollow.update {s t : State} (h : Update s t) (hs : CountersFollow s) : CountersFollow t := by
  cases h with
  | registers _ frame _ =>
    rw [RegistersOnly] at frame
    rw [frame]
    exact ⟨hs.seq, hs.numbered, hs.txnCount, hs.last⟩
  | phase p _ => exact hs.setPhase p
  | completed k p e _ => exact hs.afterPrim ..
  | returned k m e _ => exact hs.afterPrim ..
  | spoiled k p e _ => exact hs.afterPrim ..
  | memRead a => exact hs.logged rfl
  | memWrite a v => exact hs.memWrite a v
  | record => exact hs.settleRecord

/-- Settles O54: each elementary update appends at most one event, and counts it. -/
theorem countersFollowTrace : Obligations.CountersFollowTrace := by
  rintro s t follows ⟨hseq, hnum, htxn, hlast⟩ hstep
  have before : CountersFollow s := ⟨hseq, hnum, htxn, hlast⟩
  obtain ⟨hseq, hnum, htxn, hlast⟩ := (reaches_of_step hstep).keeps (fun _ _ => CountersFollow.update) before
  exact ⟨hseq, hnum, htxn, hlast⟩

end Sys2Proof.Machine

/-! ## The RoleMap check and the sequencer's masks -/

namespace Sys2Proof.Machine

/-! ### The RoleMap check (R323) -/

/-- No pin of the list repeats an earlier one or one already seen. -/
theorem firstRepeat_eq_none {seen ps : List VPin} :
    firstRepeat seen ps = none ↔ ps.Nodup ∧ ∀ p ∈ ps, p ∉ seen := by
  induction ps generalizing seen with
  | nil => simp [firstRepeat]
  | cons p ps ih =>
    by_cases hp : p ∈ seen
    · simp [firstRepeat, hp]
    · have fresh : (∀ q ∈ ps, q ∉ p :: seen) ↔ p ∉ ps ∧ ∀ q ∈ ps, q ∉ seen := by
        simp only [List.mem_cons, not_or, forall_and]
        exact and_congr_left fun _ => ⟨fun h hm => h p hm rfl, fun h q hq he => h (he ▸ hq)⟩
      have skip : firstRepeat seen (p :: ps) = firstRepeat (p :: seen) ps := by simp [firstRepeat, hp]
      rw [skip, ih, fresh]
      simp [hp, and_assoc, and_left_comm]

/-- A list's error is the fault of the pin at its head, if that has one, else the error of the rest. -/
theorem firstUnusable_cons (c : Config) (p : VPin) (ps : List VPin) :
    firstUnusable c (p :: ps) = (pinFault c p).or (firstUnusable c ps) := by
  rw [firstUnusable, pinFault]
  cases res c p with
  | none => rfl
  | some kl =>
    dsimp only
    split <;> rfl

/-- A list of role pins is usable when none of its pins has a fault. -/
theorem firstUnusable_eq_none {c : Config} {ps : List VPin} :
    firstUnusable c ps = none ↔ ∀ p ∈ ps, pinFault c p = none := by
  induction ps with
  | nil => simp [firstUnusable]
  | cons p ps ih => rw [firstUnusable_cons, Option.or_eq_none_iff, ih, List.forall_mem_cons]

theorem checkRoleMap_eq_none {c : Config} :
    checkRoleMap c = none ↔
      c.roleMap.addressBits.length ≤ 32 ∧ c.roleMap.dataBits.length = 8 ∧ (rolePins c).Nodup ∧
      ∀ p ∈ rolePins c, pinFault c p = none := by
  by_cases hlen : c.addrWidth > 32 ∨ c.roleMap.dataBits.length ≠ 8
  · have fails : checkRoleMap c ≠ none := by simp [checkRoleMap, hlen]
    have long : ¬ (c.roleMap.addressBits.length ≤ 32 ∧ c.roleMap.dataBits.length = 8) := by
      simp only [Config.addrWidth] at hlen
      omega
    exact iff_of_false fails fun ⟨h32, h8, _⟩ => long ⟨h32, h8⟩
  · have short : c.roleMap.addressBits.length ≤ 32 ∧ c.roleMap.dataBits.length = 8 := by
      simp only [Config.addrWidth] at hlen
      omega
    have nodup : firstRepeat [] (rolePins c) = none ↔ (rolePins c).Nodup := by simp [firstRepeat_eq_none]
    unfold checkRoleMap
    rw [if_neg hlen, ← nodup]
    cases firstRepeat [] (rolePins c) with
    | some p => simp
    | none => simp [short, firstUnusable_eq_none]

/-! ### The bits of the sequencer's masks (R24) -/

/-- Pin `p` maps to a bound slot. -/
theorem onBoundSlot_iff {c : Config} {p : VPin} :
    onBoundSlot c p = true ↔ ∃ s l, res c p = some (s, l) ∧ c.isBound s = true := by
  unfold onBoundSlot
  cases res c p with
  | none => simp
  | some sl => simp [Prod.ext_iff, and_assoc]

theorem hostDriven_iff {c : Config} {p : VPin} :
    hostDriven c p = true ↔ p = c.roleMap.clockPin ∨ ∃ f ∈ c.roleMap.alwaysDriven, f.pin = p := by
  simp [hostDriven]

/-- A pin carries a set bit of the data byte when some data line from bit `i` on is this pin and its bit is set. -/
theorem dataBitSet_iff {v : Byte} {p : VPin} {ds : List VPin} {i : Nat} :
    dataBitSet v p ds i = true ↔ ∃ j, ds[j]? = some p ∧ v.getLsbD (i + j) = true := by
  induction ds generalizing i with
  | nil => simp [dataBitSet]
  | cons d ds ih =>
    simp only [dataBitSet, Bool.or_eq_true, Bool.and_eq_true, beq_iff_eq, ih]
    constructor
    · rintro (⟨hd, hv⟩ | ⟨j, hj, hv⟩)
      · exact ⟨0, by simp [hd], hv⟩
      · exact ⟨j + 1, by simpa using hj, by rwa [Nat.add_right_comm] at hv⟩
    · rintro ⟨j, hj, hv⟩
      cases j with
      | zero => exact .inl ⟨by simpa using hj, hv⟩
      | succ j => exact .inr ⟨j, by simpa using hj, by rwa [Nat.add_right_comm]⟩

/-- A mask bit of a pin of the enumeration is the pin's membership. -/
theorem getLsbD_pinMask_of_lt {c : Config} (S : VPin → Bool) {k : Nat} (hn : c.nslots ≤ 4) (hk : k < 40 * c.nslots) :
    (pinMask c S).getLsbD k = S (pinOfBit k) := by
  have h160 : k < 160 := by omega
  have hpins : k < c.numPins := hk
  rw [getLsbD_pinMask, decide_eq_true h160, decide_eq_true hpins, Bool.true_and, Bool.true_and]

/-- Settles O5: a role pin has no fault exactly when it maps to a bound slot. -/
theorem roleMapCheckPasses : Obligations.RoleMapCheckPasses := by
  intro c
  simp only [checkRoleMap_eq_none, pinFault_eq_none]

/-- Settles O14: each mask's bit is its pin's membership in the set the mask is built from. -/
theorem sequencerMaskBits : Obligations.SequencerMaskBits := by
  intro c k hn hk p bound hostDriven'
  have bit (S : VPin → Bool) : (pinMask c S).getLsbD k = S p := getLsbD_pinMask_of_lt S hn hk
  have hbound : onBoundSlot c p = true ↔ bound := onBoundSlot_iff
  have hdriven : hostDriven c p = true ↔ hostDriven' := hostDriven_iff
  refine ⟨?_, ?_, ?_, ?_, ?_⟩
  · rw [allBoundMask, bit, hbound]
  · rw [floatMask, bit]
    simp [← hbound, ← hdriven]
  · rw [readTriMask, bit]
    have noData : (∀ d ∈ c.roleMap.dataBits, d ≠ p) ↔ p ∉ c.roleMap.dataBits := List.forall_mem_ne'
    simp [← hbound, ← hdriven, and_assoc, ← noData]
  · intro clk v
    have data : dataBitSet v p c.roleMap.dataBits 0 = true ↔
        ∃ i, i < 8 ∧ c.roleMap.dataBits[i]? = some p ∧ v.getLsbD i = true := by
      simp only [dataBitSet_iff, Nat.zero_add]
      exact exists_congr fun i => ⟨fun h => ⟨BitVec.lt_of_getLsbD h.2, h⟩, fun h => h.2⟩
    rw [driveMask, bit, ← data]
    simp [or_assoc]
  · intro clk
    rw [driveMask, bit]
    simp

end Sys2Proof.Machine

/-! ## What reset leaves -/

namespace Sys2Proof.Machine

/-! ### Registry construction (R144) -/

/-- What construction does with the next entry: it goes on, or ends with the entry's error, range before duplicate. -/
theorem constructFrom_cons (c : Config) (seen rest : List Entry) (e : Entry) :
    (entryInRange c e = true ∧ (∀ d ∈ seen, entriesClash d e = false) ∧
      constructFrom c seen (e :: rest) = constructFrom c (e :: seen) rest) ∨
    (entryInRange c e = true ∧ (∃ d ∈ seen, entriesClash d e = true) ∧
      constructFrom c seen (e :: rest) = some (registryError e .duplicatePin)) ∨
    (entryInRange c e = false ∧ constructFrom c seen (e :: rest) = some (registryError e .pinOutOfRange)) := by
  rw [constructFrom]
  cases hr : entryInRange c e with
  | false => simp
  | true =>
    cases hc : seen.any fun d => entriesClash d e with
    | false => exact .inl ⟨rfl, by simpa using hc, rfl⟩
    | true => exact .inr (.inl ⟨rfl, by simpa using hc, rfl⟩)

/-- Construction fails only with the two errors of R144. -/
theorem constructFrom_status {c : Config} {seen es : List Entry} {r : Raise} (h : constructFrom c seen es = some r) :
    r.status = .pinOutOfRange ∨ r.status = .duplicatePin := by
  induction es generalizing seen with
  | nil => exact absurd h nofun
  | cons e es ih =>
    rcases constructFrom_cons c seen es e with ⟨_, _, hn⟩ | ⟨_, _, hn⟩ | ⟨_, hn⟩ <;> rw [hn] at h
    · exact ih h
    · cases h
      exact .inr rfl
    · cases h
      exact .inl rfl

/-- Two entries do not clash when they differ in the virtual pin and in the (slot, local pin). -/
theorem entriesClash_eq_false {d e : Entry} :
    entriesClash d e = false ↔ d.vpin ≠ e.vpin ∧ ¬ (d.slot = e.slot ∧ d.localPin = e.localPin) := by
  simp [entriesClash, and_comm]

/-- Construction accepts a list of entries when all are in range and none clashes with an earlier one. -/
theorem constructFrom_eq_none {c : Config} {seen es : List Entry} :
    constructFrom c seen es = none ↔
      (∀ e ∈ es, entryInRange c e = true) ∧ (∀ e ∈ es, ∀ d ∈ seen, entriesClash d e = false) ∧
      es.Pairwise fun d e => entriesClash d e = false := by
  induction es generalizing seen with
  | nil => simp [constructFrom]
  | cons e es ih =>
    rw [List.forall_mem_cons, List.forall_mem_cons, List.pairwise_cons]
    rcases constructFrom_cons c seen es e with ⟨hr, hc, hn⟩ | ⟨_, ⟨d, hd, hc⟩, hn⟩ | ⟨hr, hn⟩ <;> rw [hn]
    · rw [ih]
      simp only [List.forall_mem_cons, forall_and, hr, true_and]
      tauto
    · exact iff_of_false nofun fun ⟨_, ⟨fresh, _⟩, _⟩ => absurd (fresh d hd) (by simp [hc])
    · exact iff_of_false nofun fun ⟨⟨inRange, _⟩, _⟩ => absurd inRange (by simp [hr])

theorem constructRegistry_eq_none {c : Config} : constructRegistry c = none ↔ registryWf c = true := by
  simp [constructRegistry, constructFrom_eq_none, registryWf, entriesClash_eq_false]

/-! ### The mode reset ends in -/

/-- What steps 3 to 5 of reset can come to: a construction error, a failed `init()`, or `READY` with what the RoleMap
check computes (R320 to R323). -/
theorem boot_cases (c : Config) (e : Env) :
    (∃ r, constructRegistry c = some r ∧ boot c e = bootFailed r [] e) ∨
    (constructRegistry c = none ∧ ∃ i, i = initSlots c.boundSlots e ∧
      ((∃ k, i.failed = some k ∧ boot c e = bootFailed (initError k) i.events i.env) ∨
       (i.failed = none ∧ checkRoleMap c = none ∧ boot c e = bootReady i.events i.env) ∨
       (i.failed = none ∧ ∃ r, checkRoleMap c = some r ∧
         boot c e =
           { bootReady i.events i.env with rmStatus := r.status, rmErrPin := r.pin, rmErrSlot := r.slot }))) := by
  unfold boot
  cases constructRegistry c with
  | some r => exact .inl ⟨r, rfl, rfl⟩
  | none =>
    refine .inr ⟨rfl, _, rfl, ?_⟩
    cases hf : (initSlots c.boundSlots e).failed with
    | some k => exact .inl ⟨k, rfl, by simp [hf]⟩
    | none =>
      cases hm : checkRoleMap c with
      | none => exact .inr (.inl ⟨rfl, rfl, by simp [hf]⟩)
      | some r => exact .inr (.inr ⟨rfl, r, rfl, by simp [hf]⟩)

/-- Reset ends in `READY`, on a well-formed registry and with the RoleMap check latched, or in `FAILED` with a reset
error in `LAST_STATUS` (R320). -/
theorem resetWith_modeRecorded (c : Config) (e : Env) : modeRecorded (State.resetWith c e) = true := by
  unfold modeRecorded State.resetWith
  rcases boot_cases c e with ⟨r, hc, hb⟩ | ⟨hc, i, _, ⟨k, _, hb⟩ | ⟨_, hm, hb⟩ | ⟨_, r, hm, hb⟩⟩ <;> rw [hb]
  · rcases constructFrom_status hc with hst | hst <;> simp [bootFailed, hst]
  · simp [bootFailed, initError]
  · simp [bootReady, constructRegistry_eq_none.mp hc, roleCheckLatched, hm]
  · simp [bootReady, constructRegistry_eq_none.mp hc, roleCheckLatched, hm]

/-- The record of the mode is about fields fixed at reset. -/
theorem SameFixed.modeRecorded {s t : State} (h : SameFixed s t) (hs : modeRecorded s = true) :
    modeRecorded t = true := by
  unfold Machine.modeRecorded at *
  rw [h.mode]
  cases hm : s.mode with
  | ready => simpa [hm, roleCheckLatched, h.cfg, h.rmStatus, h.rmErrPin, h.rmErrSlot] using hs
  | failed => simpa [hm, h.failedStatus hm] using hs

/-- Settles O59: the record is about fields no step changes, and reset makes it. -/
theorem modeRecordKept : Obligations.ModeRecordKept :=
  ⟨fun _ _ hs h => (reaches_of_step h).sameFixed.modeRecorded hs, resetWith_modeRecorded⟩

/-- Settles O1: the reset state is written out in `State.resetWith`; a device record reads as unknown at each slot. -/
theorem resetRegisterValues : Obligations.ResetRegisterValues := by
  intro c e s
  have ports (k : Nat) (hk : k < 4) : s.ports.get k = Port.unknown := PerSlot.get_tabulate _ hk
  exact ⟨rfl, rfl, rfl, rfl, rfl, rfl, rfl, rfl, rfl, rfl, rfl, rfl, rfl, rfl, rfl, rfl, ports, rfl⟩

end Sys2Proof.Machine

/-! ## The memory

A step is a chain of elementary updates, of which only `MemWrite` writes the memory (R75). The replay of
a longer trace starts from the memory the shorter one left. -/

namespace Sys2Proof.Machine

/-! ### The canonical form -/

/-- Writing distinct addresses one after another gives each the byte listed, and leaves the others (R40, R75). -/
theorem Memory.read_foldl_write {cells : List (Nat × Byte)} (distinct : (cells.map Prod.fst).Nodup) {m : Memory}
    (hm : m.wf = true) (a : Nat) :
    (∀ v, (a, v) ∈ cells → (cells.foldl (fun m cell => m.write cell.1 cell.2) m).read a = v) ∧
    (a ∉ cells.map Prod.fst → (cells.foldl (fun m cell => m.write cell.1 cell.2) m).read a = m.read a) := by
  induction cells generalizing m with
  | nil => exact ⟨nofun, fun _ => rfl⟩
  | cons cell cells ih =>
    obtain ⟨b, w⟩ := cell
    obtain ⟨fresh, distinct⟩ := List.nodup_cons.mp distinct
    obtain ⟨listed, unlisted⟩ := ih distinct (Memory.write_wf hm b w)
    refine ⟨fun v hv => ?_, fun ha => ?_⟩
    · rcases List.mem_cons.mp hv with head | tail
      · obtain ⟨rfl, rfl⟩ := Prod.mk.inj head
        exact (unlisted fresh).trans (Memory.read_write_same m hm a v)
      · exact listed v tail
    · obtain ⟨hab, ha⟩ := not_or.mp (List.mem_cons.not.mp ha)
      exact (unlisted ha).trans (Memory.read_write_other m hm w hab)

/-- Every elementary update keeps the memory's canonical form. -/
theorem Update.mem_wf {s t : State} (h : Update s t) (hs : s.mem.wf = true) : t.mem.wf = true := by
  cases h with
  | registers _ frame _ =>
    rw [RegistersOnly] at frame
    rw [frame]
    exact hs
  | phase p _ => rwa [setPhase_mem]
  | completed k p e _ => exact hs
  | returned k m e _ => exact hs
  | spoiled k p e _ => exact hs
  | memRead a => exact hs
  | memWrite a v => exact memWrite_wf hs a v
  | record => exact hs

/-- Settles O58: read after write, once per cell of `MEM0`; only `MemWrite` changes the memory, keeping the form. -/
theorem memoryCanonical : Obligations.MemoryCanonical :=
  ⟨fun m hm a v => ⟨Memory.write_wf hm a v, Memory.read_write m hm a v⟩,
    fun _ => rfl,
    fun _ distinct a => Memory.read_foldl_write distinct (m := []) rfl a,
    fun _ _ hs h => (reaches_of_step h).keeps (fun _ _ => Update.mem_wf) hs,
    resetWith_mem_wf⟩

/-! ### The memory and the trace -/

theorem replayMem_append (m : Memory) (es fs : List Event) :
    replayMem m (es ++ fs) = replayMem (replayMem m es) fs := by
  induction es generalizing m with
  | nil => rfl
  | cons e es ih => cases e <;> exact ih _

/-- The reads after a trace are judged by the memory the trace left. -/
theorem readsAgree_append (m : Memory) (es fs : List Event) :
    readsAgree m (es ++ fs) = (readsAgree m es && readsAgree (replayMem m es) fs) := by
  induction es generalizing m with
  | nil => rfl
  | cons e es ih =>
    cases e with
    | memRead a v => simp [readsAgree, replayMem, ih, Bool.and_assoc]
    | memWrite a v => exact ih _
    | dev k p r => exact ih m
    | phase q src dst owner => exact ih m
    | record a v d => exact ih m

/-- The memory is what the trace's writes made of `MEM0`, and every read of the trace returned what it then held (R75,
R80). -/
structure MemoryFollows (s : State) : Prop where
  mem : s.mem = replayMem (Memory.ofCells s.cfg.mem0) s.trace
  reads : readsAgree (Memory.ofCells s.cfg.mem0) s.trace = true

/-- An update that appends events and changes the memory as they say keeps the memory with the trace. -/
theorem MemoryFollows.extend {s t : State} (hs : MemoryFollows s) (es : List Event) (hcfg : t.cfg = s.cfg)
    (htrace : t.trace = s.trace ++ es) (hmem : t.mem = replayMem s.mem es) (hreads : readsAgree s.mem es = true) :
    MemoryFollows t := by
  constructor
  · rw [hmem, hcfg, htrace, replayMem_append, ← hs.mem]
  · rw [hcfg, htrace, readsAgree_append, ← hs.mem, hs.reads, hreads, Bool.and_self]

/-- Every elementary update keeps the memory with the trace. -/
theorem MemoryFollows.update {s t : State} (h : Update s t) (hs : MemoryFollows s) : MemoryFollows t := by
  cases h with
  | registers _ frame _ =>
    rw [RegistersOnly] at frame
    rw [frame]
    exact ⟨hs.mem, hs.reads⟩
  | phase p change => rw [setPhase_change p s change]; exact hs.extend [_] rfl rfl rfl rfl
  | completed k p e _ => exact hs.extend [_] rfl rfl rfl rfl
  | returned k m e _ => exact hs.extend [_] rfl rfl rfl rfl
  | spoiled k p e _ => exact hs.extend [_] rfl rfl rfl rfl
  | memRead a => exact hs.extend [.memRead a (s.mem.read a)] rfl rfl rfl (by simp [readsAgree])
  | memWrite a v => exact hs.extend [_] rfl rfl rfl rfl
  | record => exact hs.extend [_] rfl rfl rfl rfl

/-- Settles O55: each elementary update changes the memory as the event it appends says. -/
theorem memoryFollowsTrace : Obligations.MemoryFollowsTrace := by
  rintro s t follows ⟨hmem, hreads⟩ hstep
  obtain ⟨hmem, hreads⟩ := (reaches_of_step hstep).keeps (fun _ _ => MemoryFollows.update) ⟨hmem, hreads⟩
  exact ⟨hmem, hreads⟩

end Sys2Proof.Machine

/-! ## The device ports -/

namespace Sys2Proof.Machine

/-! ### The ports and the trace -/

theorem replayPorts_append (ports : PerSlot Port) (es fs : List Event) :
    replayPorts ports (es ++ fs) = replayPorts (replayPorts ports es) fs := by
  induction es generalizing ports with
  | nil => rfl
  | cons e es ih =>
    cases e with
    | dev k p r => cases r <;> exact ih _
    | memRead a v => exact ih ports
    | memWrite a v => exact ih ports
    | phase q src dst owner => exact ih ports
    | record a v d => exact ih ports

theorem unboundUntouched_iff {s : State} :
    unboundUntouched s = true ↔ ∀ k, k < 4 → s.cfg.isBound k = false → s.ports.get k = Port.unknown := by
  have slots (P : Nat → Prop) : (∀ k ∈ [0, 1, 2, 3], P k) ↔ ∀ k, k < 4 → P k :=
    forall_congr' fun k => imp_congr_left (by simp; omega)
  simp only [unboundUntouched, List.all_eq_true, Bool.or_eq_true, decide_eq_true_eq, slots, ← Bool.not_eq_true,
    or_iff_not_imp_left]

/-- The ports are what the trace's primitives made of unknown ports, and no unbound slot's port was written (R39, R71,
R73). -/
structure PortsFollow (s : State) : Prop where
  ports : s.ports = replayPorts (PerSlot.tabulate fun _ => Port.unknown) s.trace
  unbound : ∀ k, k < 4 → s.cfg.isBound k = false → s.ports.get k = Port.unknown

/-- An update that leaves the ports and appends no primitive keeps the ports with the trace. -/
theorem PortsFollow.logged {s t : State} (hs : PortsFollow s) (es : List Event) (hcfg : t.cfg = s.cfg)
    (hports : t.ports = s.ports) (htrace : t.trace = s.trace ++ es) (hes : replayPorts s.ports es = s.ports) :
    PortsFollow t := by
  constructor
  · rw [htrace, replayPorts_append, ← hs.ports, hes, hports]
  · rw [hcfg, hports]
    exact hs.unbound

/-- A primitive on a bound slot that changes its port as its event says keeps the ports with the trace. -/
theorem PortsFollow.afterPrim {s : State} (hs : PortsFollow s) {k : Nat} (bound : s.cfg.isBound k = true) {p : Prim}
    {r : PrimResult} {d : Port} (e : Env) (effect : replayPorts s.ports [.dev k p r] = s.ports.set k d) :
    PortsFollow (afterPrim k p r d e s) := by
  constructor
  · rw [afterPrim_ports, afterPrim_trace, replayPorts_append, ← hs.ports, effect]
  · intro j hj unbound
    have other : j ≠ k := fun hjk => absurd (hjk ▸ unbound) (by simp [bound])
    rw [afterPrim_ports, PerSlot.get_set_other _ _ hj other]
    exact hs.unbound j hj unbound

/-- Every elementary update keeps the ports with the trace. -/
theorem PortsFollow.update {s t : State} (h : Update s t) (hs : PortsFollow s) : PortsFollow t := by
  cases h with
  | registers _ frame _ =>
    rw [RegistersOnly] at frame
    rw [frame]
    exact ⟨hs.ports, hs.unbound⟩
  | phase p change => rw [setPhase_change p s change]; exact hs.logged [_] rfl rfl rfl rfl
  | completed k p e bound => exact hs.afterPrim bound e rfl
  | returned k m e bound => exact hs.afterPrim bound e rfl
  | spoiled k p e bound => exact hs.afterPrim bound e rfl
  | memRead a => exact hs.logged [_] rfl rfl rfl rfl
  | memWrite a v => exact hs.logged [_] rfl rfl rfl rfl
  | record => exact hs.logged [_] rfl rfl rfl rfl

/-- Settles O56: a primitive goes to a bound slot and changes its port as the event it appends says. -/
theorem portsFollowTrace : Obligations.PortsFollowTrace := by
  rintro s t follows ⟨hports, hunbound⟩ hstep
  obtain ⟨hports, hunbound⟩ := (reaches_of_step hstep).keeps (fun _ _ => PortsFollow.update)
    ⟨hports, unboundUntouched_iff.mp hunbound⟩
  exact ⟨hports, unboundUntouched_iff.mpr hunbound⟩

/-! ### The order of the sequencer's writes (R74) -/

/-- Settles O16: of the two parts of the order, the first holds the bound slots but `k`, the second `k` alone. -/
theorem clockSlotIsLast : Obligations.ClockSlotIsLast := by
  intro c k l hres hbound
  have last : (c.boundSlots.filter fun s => s == k) = [k] := by
    have once : c.boundSlots.count k = 1 :=
      List.count_eq_one_of_mem c.boundSlots_nodup ((c.mem_boundSlots k).mpr hbound)
    rw [List.filter_beq, once, List.replicate_one]
  refine ⟨c.boundSlots.filter fun s => s != k, ?_, c.boundSlots_sorted.filter _, ?_, fun s => ?_⟩
  · simp only [clockLastSlots, hres, last]
  · simp
  · simp

/-! ### What a `read_input` returns (R72) -/

/-- A bit of a read is the target's level on the target's pins, and a free draw on every other. -/
theorem Port.getLsbD_input (d : Port) (i : InputSample) {j : Nat} (hj : j < 40) :
    (d.input i).getLsbD j = if d.targetPins.getLsbD j then i.levels.getLsbD j else i.draw.getLsbD j := by
  have bits : (d.input i).getLsbD j =
      (i.levels.getLsbD j && d.targetPins.getLsbD j || i.draw.getLsbD j && !d.targetPins.getLsbD j) := by
    simp only [Port.input, BitVec.getLsbD_or, BitVec.getLsbD_and, BitVec.getLsbD_not, hj, decide_true, Bool.true_and]
  cases h : d.targetPins.getLsbD j <;> simp [bits, h]

/-- A pin is the target's when the tri-state setting is known and has it, and no assignment reaches it. -/
theorem Port.getLsbD_targetPins {d : Port} {j : Nat} (hj : j < 40) :
    d.targetPins.getLsbD j = true ↔
      (∃ t, d.tri = some t ∧ t.getLsbD j = true) ∧ d.gnd.reach.getLsbD j = false ∧ d.sup.reach.getLsbD j = false := by
  cases h : d.tri <;> simp [Port.targetPins, h, hj, and_assoc]

/-- An assignment reaches a pin when the last one failed, or completed with it. -/
theorem PinAssignment.reach_eq_true {a : PinAssignment} {j : Nat} (hj : j < 40) :
    a.reach.getLsbD j = true ↔ a = .lost ∨ ∃ m, a = .pins m ∧ m.getLsbD j = true := by
  cases a with
  | never => simp
  | lost => simp only [reach_lost, BitVec.getLsbD_allOnes, hj, decide_true, true_or]
  | pins m => simp

/-- An assignment does not reach a pin when none was issued, or the last completed without it. -/
theorem PinAssignment.reach_eq_false {a : PinAssignment} {j : Nat} (hj : j < 40) :
    a.reach.getLsbD j = false ↔ a = .never ∨ ∃ m, a = .pins m ∧ m.getLsbD j = false := by
  rw [← Bool.not_eq_true, PinAssignment.reach_eq_true hj]
  cases a <;> simp

/-- Settles O28: each clause decides whether the pin is one of the target's. -/
theorem inputBitSources : Obligations.InputBitSources := by
  intro d i j hj unassigned assigned
  have drawn (other : ¬ d.targetPins.getLsbD j = true) : (d.input i).getLsbD j = i.draw.getLsbD j := by
    rw [d.getLsbD_input i hj, if_neg other]
  rw [Port.getLsbD_targetPins hj] at drawn
  refine ⟨fun t htri ht hgnd hsup => ?_, fun t htri ht => drawn ?_, fun hother => drawn ?_⟩
  · have target : d.targetPins.getLsbD j = true := (Port.getLsbD_targetPins hj).mpr
      ⟨⟨t, htri, ht⟩, (PinAssignment.reach_eq_false hj).mpr hgnd, (PinAssignment.reach_eq_false hj).mpr hsup⟩
    rw [d.getLsbD_input i hj, if_pos target]
  · simp [htri, ht]
  · rintro ⟨⟨t, htri, _⟩, hgnd, hsup⟩
    rcases hother with unknown | ground | supply
    · simp [htri] at unknown
    · simp [(PinAssignment.reach_eq_true hj).mpr ground] at hgnd
    · simp [(PinAssignment.reach_eq_true hj).mpr supply] at hsup

end Sys2Proof.Machine

/-! ## The phases and the trace

A phase event follows R201 only if it starts from the present phase and has the owner of the transaction under way. So
each operation is followed with the phase and the gate's owner it starts from: `InPhase` before, `Run.Leads` after. -/

namespace Sys2Proof.Machine

/-! ### The phase events of a longer trace -/

theorem followPhases_append (at_ : Option (Phase × Owner)) (es fs : List Event) :
    followPhases at_ (es ++ fs) = followPhases (followPhases at_ es) fs := by
  induction es generalizing at_ with
  | nil => rfl
  | cons e es ih => cases e <;> exact ih _

/-- The events of primitives lead to no other phase. -/
theorem followPhases_dev (at_ : Option (Phase × Owner)) {es : List Event}
    (hes : ∀ e ∈ es, ∃ k p r, e = .dev k p r) : followPhases at_ es = at_ := by
  induction es with
  | nil => rfl
  | cons e es ih =>
    obtain ⟨⟨k, p, r, rfl⟩, rest⟩ := List.forall_mem_cons.mp hes
    exact ih rest

/-! ### Operations within a phase -/

/-- The phase and the gate are as before, and the trace has no new phase event. -/
structure SamePhase (s t : State) : Prop where
  phase : t.phase = s.phase
  gate : t.gateOwner = s.gateOwner
  events : ∀ at_, followPhases at_ t.trace = followPhases at_ s.trace

theorem SamePhase.refl (s : State) : SamePhase s s := ⟨rfl, rfl, fun _ => rfl⟩

theorem SamePhase.trans {s t u : State} (h : SamePhase s t) (h' : SamePhase t u) : SamePhase s u :=
  ⟨h'.phase.trans h.phase, h'.gate.trans h.gate, fun at_ => (h'.events at_).trans (h.events at_)⟩

theorem DevRun.samePhase {slots : List Nat} {s t : State} (h : DevRun slots s t) : SamePhase s t := by
  obtain ⟨frame, ⟨es, htrace, hes⟩, _⟩ := h
  have devs : ∀ e ∈ es, ∃ k p r, e = .dev k p r := fun e he =>
    have ⟨k, _, p, r, hdev⟩ := hes e he
    ⟨k, p, r, hdev⟩
  refine ⟨by rw [frame], by rw [frame], fun at_ => ?_⟩
  rw [htrace, followPhases_append, followPhases_dev _ devs]

/-- One operation after another. -/
theorem andThen_samePhase {α β : Type} {s : State} {r : Run α} {f : α → State → Run β} (h : SamePhase s r.state)
    (hf : ∀ a t, SamePhase t (f a t).state) : SamePhase s (r.andThen f).state := by
  cases r with
  | done a t => exact h.trans (hf a t)
  | error e t => exact h

theorem settle_samePhase (op : MaskOp) (s : State) : SamePhase s (op.settle s) := by
  cases op <;> exact ⟨rfl, rfl, fun _ => rfl⟩

theorem vecWrite_samePhase (op : MaskOp) (m : VMask) (order : List Nat) (s : State) :
    SamePhase s (vecWrite op m order s).state := by
  rcases vecWrite_cases op m order s with ⟨e, _, h⟩ | ⟨L, _, ⟨k, _, t, hd, h⟩ | ⟨t, hd, _, h⟩⟩ <;> rw [h]
  · exact SamePhase.refl s
  · exact hd.samePhase
  · exact hd.samePhase.trans (settle_samePhase op t)

theorem vecRead_samePhase (s : State) : SamePhase s (vecRead s).state :=
  andThen_samePhase (readAll_devRun _ _ s).samePhase fun _ t => SamePhase.refl t

theorem sampleBus_samePhase (s : State) : SamePhase s (sampleBus s).state :=
  andThen_samePhase (vecRead_samePhase s) fun _ _ => ⟨rfl, rfl, fun _ => rfl⟩

theorem writeSample_samePhase (s : State) : SamePhase s (writeSample s).state :=
  andThen_samePhase (vecRead_samePhase s) fun _ _ => ⟨rfl, rfl, fun _ => rfl⟩

theorem readFetch_samePhase (s : State) : SamePhase s (readFetch s).state :=
  ⟨rfl, rfl, fun at_ => followPhases_append at_ s.trace [.memRead _ _]⟩

theorem writeStore_samePhase (s : State) : SamePhase s (writeStore s).state :=
  ⟨rfl, rfl, fun at_ => followPhases_append at_ s.trace [.memWrite _ _]⟩

theorem settleRecord_samePhase (s : State) : SamePhase s (settleRecord s) :=
  ⟨rfl, rfl, fun at_ => followPhases_append at_ s.trace [.record _ _ _]⟩

/-- `ReadDrive` (R206). -/
theorem readDrive_samePhase (s : State) : SamePhase s (readDrive s).state :=
  andThen_samePhase (vecWrite_samePhase ..) fun _ t =>
    andThen_samePhase (readFetch_samePhase t) fun _ _ =>
      andThen_samePhase (vecWrite_samePhase ..) fun _ _ => vecWrite_samePhase ..

/-- `WriteCapture` (R207). -/
theorem writeCapture_samePhase (s : State) : SamePhase s (writeCapture s).state :=
  andThen_samePhase (vecWrite_samePhase ..) fun _ t =>
    andThen_samePhase (writeSample_samePhase t) fun _ u =>
      andThen_samePhase (writeStore_samePhase u) fun _ _ => vecWrite_samePhase ..

theorem respond_samePhase (b : List Byte) (s : State) : SamePhase s (respond b s) := ⟨rfl, rfl, fun _ => rfl⟩

theorem complete_samePhase (result : List Byte) (s : State) : SamePhase s (complete result s) :=
  ⟨rfl, rfl, fun _ => rfl⟩

/-- A host error leaves the phase of a transaction that is not the host's. -/
theorem raiseHost_samePhase (r : Raise) {s : State} (h : s.gateOwner ≠ .host) : SamePhase s (raiseHost r s) := by
  have other : ({ recordError .host r s with lastStatus := r.status } : State).gateOwner ≠ Agent.host.owner := h
  rw [raiseHost, abandonTxn_other _ _ other]
  exact ⟨rfl, rfl, fun _ => rfl⟩

theorem raiseIllegal_samePhase {s : State} (h : s.gateOwner ≠ .host) : SamePhase s (raiseIllegal s) := by
  unfold raiseIllegal
  cases s.mode with
  | ready => exact raiseHost_samePhase illegalCommand h
  | failed => exact respond_samePhase _ s

theorem whenReady_samePhase {s : State} {body : State → State} (h : SamePhase s (body s)) :
    SamePhase s (whenReady s body) := by
  rcases whenReady_cases s body with ⟨_, hw⟩ | ⟨_, hw⟩ <;> rw [hw]
  · exact h
  · exact respond_samePhase _ s

/-! ### The invariant, and the changes of phase -/

/-- The phase events of the trace follow R201, each transaction's under one owner, and lead to the present phase. -/
def PhasesFollow (s : State) : Prop :=
  followPhases (some (.idle, .free)) s.trace = some (s.phase, if s.phase = .idle then .free else s.gateOwner)

theorem SamePhase.follows {s t : State} (h : SamePhase s t) (hs : PhasesFollow s) : PhasesFollow t := by
  rw [PhasesFollow, h.events, hs, h.phase, h.gate]

/-- In `Idle` the gate may change hands. -/
theorem PhasesFollow.change_gate {s t : State} (hs : PhasesFollow s) (idle : s.phase = .idle)
    (phase : t.phase = s.phase) (trace : t.trace = s.trace) : PhasesFollow t := by
  rw [PhasesFollow, trace, hs, phase, if_pos idle, if_pos idle]

/-- The sequencer is in phase `p` with the gate held by `o`, and the trace's phase events say so. -/
structure InPhase (o : Owner) (p : Phase) (s : State) : Prop where
  gate : s.gateOwner = o
  phase : s.phase = p
  follows : PhasesFollow s

theorem InPhase.same {o : Owner} {p : Phase} {s t : State} (hs : InPhase o p s) (h : SamePhase s t) : InPhase o p t :=
  ⟨h.gate.trans hs.gate, h.phase.trans hs.phase, h.follows hs.follows⟩

/-- A change R201 allows, made by the owner of the gate (R201). -/
theorem InPhase.setPhase {o : Owner} {p q : Phase} {s : State} (hs : InPhase o p s) (owned : o ≠ .free)
    (allowed : phaseChange p q = true) : InPhase o q (setPhase q s) := by
  obtain ⟨rfl, rfl, follows⟩ := hs
  have change : s.phase ≠ q := by
    intro same
    rw [same] at allowed
    cases q <;> exact absurd allowed (by decide)
  rw [setPhase_change q s change]
  refine ⟨rfl, rfl, ?_⟩
  have owner : s.phase = .idle ∨ (if s.phase = .idle then .free else s.gateOwner) = s.gateOwner :=
    or_iff_not_imp_left.mpr fun busy => if_neg busy
  rw [PhasesFollow, followPhases_append, follows]
  simp only [followPhases, allowed, owned, owner, ne_eq, not_false_eq_true, and_self, if_true]

/-- From every phase the owner of the gate may return to `Idle` (R201, R209). -/
theorem InPhase.setPhase_idle {o : Owner} {p : Phase} {s : State} (hs : InPhase o p s) (owned : o ≠ .free) :
    InPhase o .idle (Machine.setPhase .idle s) := by
  by_cases idle : p = .idle
  · subst idle
    rwa [setPhase_same .idle s hs.phase]
  · have allowed : phaseChange p .idle = true := by
      cases p with
      | idle => exact absurd rfl idle
      | floating => rfl
      | sampled => rfl
      | readDrive => rfl
      | writeCapture => rfl
      | settled => rfl
    exact hs.setPhase owned allowed

theorem InPhase.releaseGate {o : Owner} {s : State} (a : Agent) (hs : InPhase o .idle s) :
    PhasesFollow (releaseGate a s) :=
  hs.follows.change_gate hs.phase (releaseGate_phase a s) (releaseGate_trace a s)

/-- The raise of the agent that holds the gate ends its transaction, whatever phase it is in (R209, R285). -/
theorem InPhase.abandonTxn {a : Agent} {p : Phase} {s : State} (hs : InPhase a.owner p s) :
    PhasesFollow (abandonTxn a s) := by
  have owned : a.owner ≠ .free := by cases a <;> nofun
  have idle := hs.setPhase_idle owned
  rw [abandonTxn_owner a s hs.gate]
  exact idle.follows.change_gate idle.phase rfl rfl

theorem InPhase.raiseHost {p : Phase} {s : State} (r : Raise) (hs : InPhase .host p s) :
    PhasesFollow (raiseHost r s) :=
  have recorded : InPhase Agent.host.owner p { recordError .host r s with lastStatus := r.status } :=
    hs.same ⟨rfl, rfl, fun _ => rfl⟩
  (respond_samePhase _ _).follows recorded.abandonTxn

theorem InPhase.raiseWorker {p : Phase} {s : State} (r : Raise) (hs : InPhase .freerun p s) :
    PhasesFollow (raiseWorker r s) :=
  have recorded : InPhase Agent.freerun.owner p { recordError .freerun r s with frStatus := r.status } :=
    hs.same ⟨rfl, rfl, fun _ => rfl⟩
  recorded.abandonTxn

/-! ### Transactions -/

/-- The operation completes in phase `p`, or raises in some phase, the gate still with `o`. -/
def Run.Leads {α : Type} (o : Owner) (p : Phase) : Run α → Prop
  | .done _ t => InPhase o p t
  | .error _ t => ∃ q, InPhase o q t

/-- An operation within the phase leads to the phase it starts from. -/
theorem InPhase.leads {α : Type} {o : Owner} {p : Phase} {s : State} {r : Run α} (hs : InPhase o p s)
    (h : SamePhase s r.state) : r.Leads o p := by
  cases r with
  | done a t => exact hs.same h
  | error e t => exact ⟨p, hs.same h⟩

theorem Run.Leads.andThen {α β : Type} {o : Owner} {p q : Phase} {r : Run α} {f : α → State → Run β}
    (h : r.Leads o p) (hf : ∀ a t, InPhase o p t → (f a t).Leads o q) : (r.andThen f).Leads o q := by
  cases r with
  | done a t => exact hf a t h
  | error e t => exact h

/-- The precheck ends in `Floating`, or raises in `Idle` (R202). -/
theorem precheck_leads {o : Owner} {s : State} (owned : o ≠ .free) (hs : InPhase o .idle s) :
    (precheck s).Leads o .floating := by
  unfold precheck
  split
  · exact hs.setPhase owned rfl
  · exact ⟨.idle, hs⟩

/-- A transaction goes from `Idle` to `Idle` (R200, R201). -/
theorem transaction_leads {o : Owner} {s : State} (owned : o ≠ .free) (hs : InPhase o .idle s) :
    (transaction s).Leads o .idle := by
  have settled {p : Phase} {t : State} (ht : InPhase o p t) (allowed : phaseChange p .settled = true) :
      InPhase o .idle (setPhase .idle (settleRecord (setPhase .settled t))) :=
    ((ht.setPhase owned allowed).same (settleRecord_samePhase _)).setPhase owned rfl
  refine (precheck_leads owned hs).andThen fun _ t ht => ?_
  refine (ht.leads (vecWrite_samePhase ..)).andThen fun _ u hu => ?_
  have sampled := hu.setPhase (q := .sampled) owned rfl
  refine (sampled.leads (sampleBus_samePhase _)).andThen fun _ v hv => ?_
  unfold branchPhase
  cases v.curDir with
  | read =>
    have driving := hv.setPhase (q := .readDrive) owned rfl
    exact (driving.leads (readDrive_samePhase _)).andThen fun _ _ hw => settled hw rfl
  | write =>
    have capturing := hv.setPhase (q := .writeCapture) owned rfl
    exact (capturing.leads (writeCapture_samePhase _)).andThen fun _ _ hw => settled hw rfl

/-- An action that finds the phase of its place leads to a phase R201 allows. -/
theorem TxnStage.run_leads {o : Owner} {s : State} (st : TxnStage) (owned : o ≠ .free)
    (hs : InPhase o (st.phase s.curDir) s) : ∃ q, (st.run s).Leads o q := by
  cases st with
  | precheck => exact ⟨_, precheck_leads owned hs⟩
  | floatBus => exact ⟨_, hs.leads (vecWrite_samePhase ..)⟩
  | enterSampled => exact ⟨_, hs.setPhase owned rfl⟩
  | sample => exact ⟨_, hs.leads (sampleBus_samePhase s)⟩
  | branch =>
    simp only [TxnStage.run, branchPhase]
    cases s.curDir with
    | read => exact ⟨_, hs.setPhase (q := .readDrive) owned rfl⟩
    | write => exact ⟨_, hs.setPhase (q := .writeCapture) owned rfl⟩
  | readEnable => exact ⟨_, hs.leads (vecWrite_samePhase ..)⟩
  | readFetch => exact ⟨_, hs.leads (readFetch_samePhase s)⟩
  | readClockHigh => exact ⟨_, hs.leads (vecWrite_samePhase ..)⟩
  | readClockLow => exact ⟨_, hs.leads (vecWrite_samePhase ..)⟩
  | writeClockHigh => exact ⟨_, hs.leads (vecWrite_samePhase ..)⟩
  | writeCapture => exact ⟨_, hs.leads (writeSample_samePhase s)⟩
  | writeStore => exact ⟨_, hs.leads (writeStore_samePhase s)⟩
  | writeClockLow => exact ⟨_, hs.leads (vecWrite_samePhase ..)⟩
  | enterSettled =>
    have allowed : phaseChange (TxnStage.enterSettled.phase s.curDir) .settled = true := by
      cases s.curDir with
      | read => rfl
      | write => rfl
    exact ⟨_, hs.setPhase owned allowed⟩
  | settle => exact ⟨_, hs.leads (settleRecord_samePhase s)⟩
  | enterIdle => exact ⟨_, hs.setPhase owned rfl⟩

/-! ### Commands -/

/-- What the host port finds between steps: the gate is not its own, and where it is free the sequencer is in `Idle`. -/
structure HostMayMove (s : State) : Prop where
  notHost : s.gateOwner ≠ .host
  freeIdle : s.gateOwner = .free → s.phase = .idle
  follows : PhasesFollow s

/-- A gate command whose body goes from `Idle` to `Idle` keeps the phases with the trace, however it ends (R250). -/
theorem HostMayMove.withGate {s : State} (hs : HostMayMove s) {body : State → Run (List Byte)}
    (hbody : ∀ u, InPhase .host .idle u → (body u).Leads .host .idle) : PhasesFollow (withGate s body) := by
  have taken (free : s.gateOwner = .free) : InPhase .host .idle { s with gateOwner := .host } :=
    ⟨rfl, hs.freeIdle free, hs.follows.change_gate (hs.freeIdle free) rfl rfl⟩
  rcases withGate_cases s body with ⟨_, hw⟩ | ⟨free, result, t, hb, hw⟩ | ⟨free, e, t, hb, hw⟩ <;> rw [hw]
  · exact hs.follows
  · have ended : InPhase .host .idle t := by
      have h := hbody _ (taken free)
      rwa [hb] at h
    exact (complete_samePhase _ _).follows (ended.releaseGate .host)
  · obtain ⟨q, ended⟩ : ∃ q, InPhase .host q t := by
      have h := hbody _ (taken free)
      rwa [hb] at h
    exact ended.raiseHost e

theorem HostMayMove.whenReady {s : State} (hs : HostMayMove s) {body : State → State}
    (hbody : PhasesFollow (body s)) : PhasesFollow (whenReady s body) := by
  rcases whenReady_cases s body with ⟨_, hw⟩ | ⟨_, hw⟩ <;> rw [hw]
  · exact hbody
  · exact (respond_samePhase _ s).follows hs.follows

/-- A vector command makes no phase event: its body stays in `Idle`. -/
theorem HostMayMove.vectorCommand {α : Type} {s : State} (hs : HostMayMove s) {op : State → Run α}
    {result : α → State → List Byte} (hop : ∀ u, SamePhase u (op u).state) :
    PhasesFollow (Machine.whenReady s fun s => Machine.withGate s fun s =>
      (op s).andThen fun a t => .done (result a t) t) :=
  hs.whenReady <| hs.withGate fun u hu => hu.leads (andThen_samePhase (hop u) fun _ t => SamePhase.refl t)

theorem HostMayMove.maskedWrite {s : State} (hs : HostMayMove s) (op : MaskOp) (m : VMask) :
    PhasesFollow (maskedWrite op m s) :=
  hs.vectorCommand fun _ => vecWrite_samePhase ..

theorem HostMayMove.supplyWrite {s : State} (hs : HostMayMove s) (p : Prim) : PhasesFollow (supplyWrite p s) :=
  hs.vectorCommand fun u => (issueAll_devRun _ _ u).samePhase

/-- Every command keeps the phases with the trace. -/
theorem HostMayMove.exec {s t : State} (hs : HostMayMove s) (i : Instr) (h : exec i s = .next t) : PhasesFollow t := by
  have query {body : State → State} (hbody : SamePhase s (body s)) : PhasesFollow (Machine.whenReady s body) :=
    hs.whenReady (hbody.follows hs.follows)
  cases i <;> cases h
  case resolve vpin =>
    apply query
    split
    · exact raiseHost_samePhase _ hs.notHost
    · exact complete_samePhase _ s
  case pinsForSlot slot =>
    split
    · exact query (complete_samePhase _ s)
    · exact (raiseIllegal_samePhase hs.notHost).follows hs.follows
  case fanOut m =>
    apply query
    split
    · exact raiseHost_samePhase _ hs.notHost
    · exact complete_samePhase _ s
  case aggregate I => exact query (complete_samePhase _ s)
  case drive m => exact hs.maskedWrite .output m
  case triState m => exact hs.maskedWrite .tristate m
  case read => exact hs.vectorCommand vecRead_samePhase
  case assignGround m => exact hs.maskedWrite .groundPins m
  case assignSupplyPins m => exact hs.maskedWrite .supplyPins m
  case setSupplyVoltage level => exact hs.supplyWrite (.setSupplyVoltage level.toInt)
  case enableSupply on => exact hs.supplyWrite (.enableSupply on)
  case busCycle =>
    have owned : Owner.host ≠ .free := nofun
    exact hs.whenReady <| hs.withGate fun u hu => (transaction_leads owned hu).andThen fun _ _ ht => ht
  case freeRunStart =>
    apply query
    split
    · exact complete_samePhase [] s
    · exact ⟨rfl, rfl, fun _ => rfl⟩
  case freeRunCancel =>
    apply query
    split
    · exact ⟨rfl, rfl, fun _ => rfl⟩
    · exact complete_samePhase [] s
  case readReg r => exact (respond_samePhase _ s).follows hs.follows

theorem HostMayMove.hostStep {s t : State} (hs : HostMayMove s) (h : hostStep s = .next t) : PhasesFollow t := by
  unfold Machine.hostStep at h
  cases hf : fetch s with
  | none =>
    rw [hf] at h
    cases h
    exact hs.follows
  | some d =>
    rw [hf] at h
    cases d with
    | ok i => exact hs.exec i h
    | error e =>
      cases h
      exact (raiseIllegal_samePhase hs.notHost).follows hs.follows

/-! ### Steps -/

/-- Between steps the worker holds the gate or nobody does, and the phase is the one of the worker's place (R250). -/
theorem gate_and_phase_of_arbitrated {s : State} (h : arbitrated s = true) :
    (s.gateOwner = if s.frStage.holdsGate then .freerun else .free) ∧ s.phase = s.frStage.phase s.curDir := by
  simp only [arbitrated, Bool.and_eq_true, decide_eq_true_eq] at h
  obtain ⟨⟨⟨⟨gate, phase⟩, _⟩, _⟩, _⟩ := h
  exact ⟨gate, phase⟩

/-- A worker outside its hold of the gate is at a place of `Idle`. -/
theorem WorkerStage.phase_of_not_holdsGate {w : WorkerStage} (h : w.holdsGate = false) (dir : Direction) :
    w.phase dir = .idle := by
  cases w with
  | txn st => exact absurd h nofun
  | boundary => rfl
  | acquire => rfl
  | release => rfl
  | report => rfl
  | stopping => rfl

theorem hostMayMove_of_arbitrated {s : State} (h : arbitrated s = true) (hs : PhasesFollow s) : HostMayMove s := by
  obtain ⟨gate, phase⟩ := gate_and_phase_of_arbitrated h
  cases hold : s.frStage.holdsGate with
  | true =>
    rw [hold, if_pos rfl] at gate
    exact ⟨by simp [gate], by simp [gate], hs⟩
  | false =>
    rw [hold, if_neg nofun] at gate
    exact ⟨by simp [gate], fun _ => phase.trans (WorkerStage.phase_of_not_holdsGate hold _), hs⟩

/-- An action of the worker's transaction, completed or raised, keeps the phases with the trace. -/
theorem workerAfter_follows {q : Phase} (st : TxnStage) {r : Run Unit} (h : r.Leads .freerun q) :
    PhasesFollow (workerAfter st r) := by
  cases r with
  | done a t =>
    simp only [workerAfter]
    split <;> exact h.follows
  | error e t =>
    obtain ⟨p, ht⟩ := h
    exact ht.raiseWorker e

theorem workerStep_follows {s : State} (h : arbitrated s = true) (hs : PhasesFollow s) :
    PhasesFollow (workerStep s) := by
  obtain ⟨gate, phase⟩ := gate_and_phase_of_arbitrated h
  unfold workerStep
  cases hw : s.frStage with
  | boundary =>
    dsimp only
    split <;> exact hs
  | acquire =>
    rw [hw] at phase
    cases s.gateOwner with
    | free => exact hs.change_gate phase rfl rfl
    | host => exact hs
    | freerun => exact hs
  | txn st =>
    rw [hw] at gate phase
    have owned : Owner.freerun ≠ .free := nofun
    obtain ⟨q, hq⟩ := st.run_leads owned ⟨gate, phase, hs⟩
    exact workerAfter_follows st hq
  | release =>
    rw [hw] at phase
    exact hs.change_gate phase (releaseGate_phase .freerun s) (releaseGate_trace .freerun s)
  | report => exact hs
  | stopping => exact hs

/-- Settles O53: the host port changes the phase only inside one command, which goes from `Idle` to `Idle`; the worker's
actions change it as R201 says from the phase of the worker's place. -/
theorem transactionsNeverInterleave : Obligations.TransactionsNeverInterleave := by
  intro s t harb hs h
  rcases step_cases s with ⟨_, _, hstep⟩ | ⟨_, e, hstep⟩ | ⟨_, e, hstep⟩ <;> rw [hstep] at h
  · cases h
    exact hs
  · have may : HostMayMove { s with env := e } := hostMayMove_of_arbitrated harb hs
    exact may.hostStep h
  · cases h
    exact workerStep_follows (s := { s with env := e }) harb hs

end Sys2Proof.Machine

/-! ## The encoding

Opcodes and register numbers are found in tables that list each code once; an operand field is read and laid out as
little-endian bytes, so each field is inverted once, by its width (R102 to R106). -/

namespace Sys2Proof

open Machine Laws

/-! ### The code tables -/

/-- In a table that finds each entry under its own code, an entry is found under that code only. -/
theorem find?_code_eq_some {α : Type} {table : List α} {code : α → Byte}
    (finds : ∀ a, (table.find? fun x => code x == code a) = some a) {b : Byte} {a : α} :
    (table.find? fun x => code x == b) = some a ↔ code a = b := by
  constructor
  · intro found
    simpa using List.find?_some found
  · rintro rfl
    exact finds a

theorem Opcode.ofByte_eq_some {b : Byte} {op : Opcode} : Opcode.ofByte b = some op ↔ op.code = b :=
  find?_code_eq_some fun op => by cases op <;> rfl

theorem Reg.ofNumber_eq_some {b : Byte} {r : Reg} : Reg.ofNumber b = some r ↔ r.number = b :=
  find?_code_eq_some fun r => by cases r <;> rfl

@[simp] theorem Opcode.ofByte_code (op : Opcode) : Opcode.ofByte op.code = some op := Opcode.ofByte_eq_some.mpr rfl

@[simp] theorem Reg.ofNumber_number (r : Reg) : Reg.ofNumber r.number = some r := Reg.ofNumber_eq_some.mpr rfl

/-- A byte that is no row's opcode is reserved (R107). -/
theorem Opcode.ofByte_eq_none {b : Byte} (h : ∀ op : Opcode, op.code ≠ b) : Opcode.ofByte b = none :=
  Option.eq_none_iff_forall_ne_some.mpr fun op found => h op (Opcode.ofByte_eq_some.mp found)

/-- Register numbers above `0x1A` are reserved (R37, R38). -/
theorem Reg.ofNumber_eq_none {b : Byte} (h : 0x1A < b.toNat) : Reg.ofNumber b = none := by
  refine Option.eq_none_iff_forall_ne_some.mpr fun r found => ?_
  obtain rfl := Reg.ofNumber_eq_some.mp found
  have number_le : r.number.toNat ≤ 0x1A := by cases r <;> decide
  omega

/-! ### Fields -/

/-- Reading the bytes a value was laid out in gives the value, if it fits the bytes (R69, R102). -/
theorem ofNat_leNat_leBytes {n w : Nat} (v : BitVec w) (fits : v.toNat < 256 ^ n) :
    BitVec.ofNat w (leNat (leBytes n v.toNat)) = v := by
  rw [leNat_leBytes_of_lt fits, BitVec.ofNat_toNat, BitVec.setWidth_eq]

/-- A field of `n` bytes, read at a width that holds it, keeps its value. -/
theorem toNat_ofNat_leNat {n w : Nat} {bs : List Byte} (len : bs.length = n) (wide : 256 ^ n ≤ 2 ^ w) :
    (BitVec.ofNat w (leNat bs)).toNat = leNat bs := by
  have bound := leNat_lt bs
  rw [len] at bound
  exact BitVec.toNat_ofNat _ _ ▸ Nat.mod_eq_of_lt (bound.trans_le wide)

/-- Laying out what a field of `n` bytes reads as gives the field, if the width holds it. -/
theorem leBytes_ofNat_leNat {n w : Nat} {bs : List Byte} (len : bs.length = n) (wide : 256 ^ n ≤ 2 ^ w) :
    leBytes n (BitVec.ofNat w (leNat bs)).toNat = bs := by
  rw [toNat_ofNat_leNat len wide, ← len, leBytes_leNat]

theorem leNat_singleton (b : Byte) : leNat [b] = b.toNat := by simp [leNat]

/-! ### Virtual masks (R103) -/

theorem pow_maskBytes (nslots : Nat) : 256 ^ (5 * nslots) = 2 ^ (40 * nslots) := by
  rw [show (256 : Nat) = 2 ^ 8 from rfl, ← Nat.pow_mul]
  congr 1
  omega

theorem VMask.fits_iff {nslots : Nat} {m : VMask} : VMask.fits nslots m = true ↔ m.toNat < 256 ^ (5 * nslots) := by
  rw [pow_maskBytes, VMask.fits, decide_eq_true_eq]

theorem vmaskOfBytes_vmaskBytes {nslots : Nat} {m : VMask} (fits : VMask.fits nslots m = true) :
    vmaskOfBytes (vmaskBytes nslots m) = m :=
  ofNat_leNat_leBytes m (VMask.fits_iff.mp fits)

/-- Up to four slots a mask's bytes hold no bit that the widest mask lacks. -/
theorem pow_maskBytes_le {nslots : Nat} (hn : nslots ≤ 4) : 256 ^ (5 * nslots) ≤ 2 ^ 160 := by
  rw [pow_maskBytes]
  exact Nat.pow_le_pow_right (by omega) (by omega)

theorem vmaskBytes_vmaskOfBytes {nslots : Nat} {bs : List Byte} (hn : nslots ≤ 4) (len : bs.length = 5 * nslots) :
    vmaskBytes nslots (vmaskOfBytes bs) = bs :=
  leBytes_ofNat_leNat len (pow_maskBytes_le hn)

theorem vmaskOfBytes_fits {nslots : Nat} {bs : List Byte} (hn : nslots ≤ 4) (len : bs.length = 5 * nslots) :
    VMask.fits nslots (vmaskOfBytes bs) = true := by
  rw [VMask.fits_iff, vmaskOfBytes, toNat_ofNat_leNat len (pow_maskBytes_le hn), ← len]
  exact leNat_lt bs

/-! ### Local masks (R102, R104) -/

/-- The slice of slot `s` of a list made of five bytes per slot. -/
theorem slice_flatMap {f : Nat → List Byte} (len : ∀ k, (f k).length = 5) {n s : Nat} (hs : s < n) :
    (((List.range n).flatMap f).drop (5 * s)).take 5 = f s := by
  induction n with
  | zero => omega
  | succ n ih =>
    have lenInit : ((List.range n).flatMap f).length = 5 * n := by simp [List.length_flatMap, len, Nat.mul_comm]
    rw [List.range_succ, List.flatMap_append, List.flatMap_singleton]
    rcases Nat.lt_or_eq_of_le (Nat.le_of_lt_succ hs) with earlier | rfl
    · have inInit : 5 ≤ (((List.range n).flatMap f).drop (5 * s)).length := by
        rw [List.length_drop, lenInit]
        omega
      rw [List.drop_append_of_le_length (by omega), List.take_append_of_le_length inInit, ih earlier]
    · rw [← lenInit, List.drop_left, ← len s, List.take_length]

/-- The slices of five bytes, put one after another, are the list they are cut from. -/
theorem flatMap_slice (bs : List Byte) (n : Nat) :
    ((List.range n).flatMap fun s => (bs.drop (5 * s)).take 5) = bs.take (5 * n) := by
  induction n with
  | zero => simp
  | succ n ih => rw [List.range_succ, List.flatMap_append, List.flatMap_singleton, ih, Nat.mul_succ, List.take_add]

/-- Local masks fit when every slot that does not exist has the empty one (R102). -/
theorem lmasksFit_iff {nslots : Nat} {v : PerSlot LMask} :
    lmasksFit nslots v = true ↔ ∀ s, s < 4 → nslots ≤ s → v.get s = 0#40 := by
  have slots (P : Nat → Prop) : (∀ s ∈ [0, 1, 2, 3], P s) ↔ ∀ s, s < 4 → P s :=
    forall_congr' fun s => imp_congr_left (by simp; omega)
  simp only [lmasksFit, List.all_eq_true, Bool.or_eq_true, decide_eq_true_eq, beq_iff_eq, slots, ← Nat.not_lt,
    or_iff_not_imp_left]

/-- The mask read for slot `s`. -/
theorem get_lmasksOfBytes (nslots : Nat) (bs : List Byte) {s : Nat} (hs : s < 4) :
    (lmasksOfBytes nslots bs).get s =
      if s < nslots then BitVec.ofNat 40 (leNat ((bs.drop (5 * s)).take 5)) else 0#40 :=
  PerSlot.get_tabulate _ hs

theorem lmasksOfBytes_fit (nslots : Nat) (bs : List Byte) : lmasksFit nslots (lmasksOfBytes nslots bs) = true :=
  lmasksFit_iff.mpr fun s hs absent => by rw [get_lmasksOfBytes nslots bs hs, if_neg (Nat.not_lt.mpr absent)]

theorem lmasksOfBytes_lmasksBytes {nslots : Nat} {v : PerSlot LMask} (fit : lmasksFit nslots v = true) :
    lmasksOfBytes nslots (lmasksBytes nslots v) = v := by
  refine PerSlot.ext_get fun s hs => ?_
  rw [get_lmasksOfBytes nslots _ hs]
  split
  · rename_i present
    rw [lmasksBytes, slice_flatMap (fun k => length_lmaskBytes (v.get k)) present]
    exact ofNat_leNat_leBytes (n := 5) (v.get s) (v.get s).isLt
  · rename_i absent
    exact (lmasksFit_iff.mp fit s hs (Nat.not_lt.mp absent)).symm

theorem lmasksBytes_lmasksOfBytes {nslots : Nat} {bs : List Byte} (hn : nslots ≤ 4) (len : bs.length = 5 * nslots) :
    lmasksBytes nslots (lmasksOfBytes nslots bs) = bs := by
  have slice (s : Nat) (hs : s ∈ List.range nslots) :
      lmaskBytes ((lmasksOfBytes nslots bs).get s) = (bs.drop (5 * s)).take 5 := by
    have present : s < nslots := List.mem_range.mp hs
    rw [get_lmasksOfBytes nslots bs (by omega), if_pos present]
    exact leBytes_ofNat_leNat (by simp; omega) (by decide)
  calc lmasksBytes nslots (lmasksOfBytes nslots bs)
      = (List.range nslots).flatMap fun s => (bs.drop (5 * s)).take 5 := List.flatMap_congr slice
    _ = bs.take (5 * nslots) := flatMap_slice bs nslots
    _ = bs := by rw [← len, List.take_length]

/-! ### Commands -/

/-- What an opcode byte and the bytes after it decode to: the length is checked, then the operands are read (R106,
R107). -/
theorem decode_code_cons (nslots : Nat) (op : Opcode) (bs : List Byte) :
    decode nslots (op.code :: bs) =
      if bs.length + 1 = op.length nslots then decodeOperands nslots op bs else .error (.wrongLength op) := by
  simp only [decode, Opcode.ofByte_code]

/-- A byte string decodes when it is an opcode and operand bytes of the opcode's length that decode (R105 to R108). -/
theorem decode_eq_ok {nslots : Nat} {bytes : List Byte} {i : Instr} (h : decode nslots bytes = .ok i) :
    ∃ op bs, bytes = op.code :: bs ∧ bs.length + 1 = op.length nslots ∧ decodeOperands nslots op bs = .ok i := by
  cases bytes with
  | nil => cases h
  | cons b bs =>
    cases hop : Opcode.ofByte b with
    | none =>
      rw [decode, hop] at h
      cases h
    | some op =>
      obtain rfl := Opcode.ofByte_eq_some.mp hop
      rw [decode_code_cons] at h
      split at h
      · exact ⟨op, bs, rfl, ‹_›, h⟩
      · cases h

/-- The encoded command has the length R106 gives its opcode. -/
theorem length_encode (nslots : Nat) (i : Instr) : (encode nslots i).length = i.opcode.length nslots := by
  cases i with
  | resolve vpin => exact EncodedLength.resolve vpin nslots
  | pinsForSlot slot => exact EncodedLength.pinsForSlot slot nslots
  | fanOut m => exact EncodedLength.fanOut m nslots
  | aggregate v => exact EncodedLength.aggregate v nslots
  | drive m => exact EncodedLength.drive m nslots
  | triState m => exact EncodedLength.triState m nslots
  | read => exact EncodedLength.read nslots
  | assignGround m => exact EncodedLength.assignGround m nslots
  | assignSupplyPins m => exact EncodedLength.assignSupplyPins m nslots
  | setSupplyVoltage level => exact EncodedLength.setSupplyVoltage level nslots
  | enableSupply on => exact EncodedLength.enableSupply on nslots
  | busCycle => exact EncodedLength.busCycle nslots
  | freeRunStart => exact EncodedLength.freeRunStart nslots
  | freeRunCancel => exact EncodedLength.freeRunCancel nslots
  | readReg r => exact EncodedLength.readReg r nslots

/-- The operand bytes of a well-formed command read back as the command. -/
theorem decodeOperands_encodeOperands {nslots : Nat} {i : Instr} (wf : i.wellFormed nslots = true) :
    decodeOperands nslots i.opcode (encodeOperands nslots i) = .ok i := by
  cases i
  case resolve vpin => exact congrArg (Except.ok ∘ Instr.resolve) (ofNat_leNat_leBytes (n := 2) vpin vpin.isLt)
  case pinsForSlot slot =>
    have present : slot.toNat < nslots := of_decide_eq_true wf
    simp [encodeOperands, Instr.opcode, decodeOperands, leNat_singleton, present]
  case fanOut m => exact congrArg (Except.ok ∘ Instr.fanOut) (vmaskOfBytes_vmaskBytes wf)
  case aggregate v => exact congrArg (Except.ok ∘ Instr.aggregate) (lmasksOfBytes_lmasksBytes wf)
  case drive m => exact congrArg (Except.ok ∘ Instr.drive) (vmaskOfBytes_vmaskBytes wf)
  case triState m => exact congrArg (Except.ok ∘ Instr.triState) (vmaskOfBytes_vmaskBytes wf)
  case assignGround m => exact congrArg (Except.ok ∘ Instr.assignGround) (vmaskOfBytes_vmaskBytes wf)
  case assignSupplyPins m => exact congrArg (Except.ok ∘ Instr.assignSupplyPins) (vmaskOfBytes_vmaskBytes wf)
  case setSupplyVoltage level =>
    exact congrArg (Except.ok ∘ Instr.setSupplyVoltage) (ofNat_leNat_leBytes (n := 4) level level.isLt)
  case enableSupply on => cases on <;> rfl
  case readReg r => simp [encodeOperands, Instr.opcode, decodeOperands, leNat_singleton]
  case read | busCycle | freeRunStart | freeRunCancel => rfl

/-- Settles O8: the opcode is found under its own code, the length is R106's, and each field reads back. -/
theorem decodeOfEncode : Obligations.DecodeOfEncode := by
  intro nslots i wf
  have len : (encodeOperands nslots i).length + 1 = i.opcode.length nslots := length_encode nslots i
  rw [encode, decode_code_cons, if_pos len, decodeOperands_encodeOperands wf]

/-- The command has this opcode and these operand bytes, and is well-formed. -/
structure Instr.LaidOutAs (nslots : Nat) (i : Instr) (op : Opcode) (bs : List Byte) : Prop where
  opcode : i.opcode = op
  operands : encodeOperands nslots i = bs
  wellFormed : i.wellFormed nslots = true

/-- Operand bytes of the opcode's length that are read as a command are that command's. -/
theorem laidOutAs_of_decodeOperands {nslots : Nat} {op : Opcode} {bs : List Byte} {i : Instr} (hn : nslots ≤ 4)
    (len : bs.length + 1 = op.length nslots) (h : decodeOperands nslots op bs = .ok i) : i.LaidOutAs nslots op bs := by
  have maskLen (width : op.length nslots = 1 + 5 * nslots) : bs.length = 5 * nslots := by omega
  have oneByte (width : op.length nslots = 2) : ∃ b, bs = [b] := List.length_eq_one_iff.mp (by omega)
  have noBytes (width : op.length nslots = 1) : [] = bs := (List.length_eq_zero_iff.mp (by omega)).symm
  cases op
  case resolve | setSupplyVoltage =>
    cases h
    exact ⟨rfl, leBytes_ofNat_leNat (Nat.succ.inj len) (by decide), rfl⟩
  case fanOut | drive | triState | assignGround | assignSupplyPins =>
    cases h
    exact ⟨rfl, vmaskBytes_vmaskOfBytes hn (maskLen rfl), vmaskOfBytes_fits hn (maskLen rfl)⟩
  case aggregate =>
    cases h
    exact ⟨rfl, lmasksBytes_lmasksOfBytes hn (maskLen rfl), lmasksOfBytes_fit nslots bs⟩
  case read | busCycle | freeRunStart | freeRunCancel =>
    cases h
    exact ⟨rfl, noBytes rfl, rfl⟩
  case pinsForSlot =>
    obtain ⟨b, rfl⟩ := oneByte rfl
    simp only [decodeOperands, leNat_singleton, BitVec.ofNat_toNat, BitVec.setWidth_eq] at h
    split at h
    · cases h
      exact ⟨rfl, rfl, decide_eq_true ‹_›⟩
    · cases h
  case enableSupply =>
    obtain ⟨b, rfl⟩ := oneByte rfl
    simp only [decodeOperands, leNat_singleton] at h
    have layout (on : Bool) (value : b.toNat = on.toNat) :
        (Instr.enableSupply on).LaidOutAs nslots .enableSupply [b] := by
      have byte : (if on then 1#8 else 0#8) = b := BitVec.eq_of_toNat_eq (by cases on <;> simp [value])
      exact ⟨rfl, congrArg (fun b => [b]) byte, rfl⟩
    split at h
    · cases h
      exact layout false ‹_›
    · split at h
      · cases h
        exact layout true ‹_›
      · cases h
  case readReg =>
    obtain ⟨b, rfl⟩ := oneByte rfl
    simp only [decodeOperands, leNat_singleton, BitVec.ofNat_toNat, BitVec.setWidth_eq] at h
    split at h
    · cases h
      exact ⟨rfl, congrArg (fun b => [b]) (Reg.ofNumber_eq_some.mp ‹_›), rfl⟩
    · cases h

/-- Settles O9: the string's opcode and operand bytes are the command's own. -/
theorem encodeOfDecode : Obligations.EncodeOfDecode := by
  intro nslots bytes i hn h
  obtain ⟨op, bs, rfl, len, hops⟩ := decode_eq_ok h
  obtain ⟨rfl, rfl, wf⟩ := laidOutAs_of_decodeOperands hn len hops
  exact ⟨rfl, wf⟩

/-- Settles O10: each word is the encoding of its command. -/
theorem decodeSpecWords : Obligations.DecodeSpecWords :=
  ⟨decodeOfEncode 1 (.resolve 41#16) rfl, decodeOfEncode 4 (.pinsForSlot 1#8) rfl,
    decodeOfEncode 1 (.drive 0x6000#160) rfl, decodeOfEncode 1 (.triState 0x4001#160) rfl,
    decodeOfEncode 4 (.setSupplyVoltage 0xFFFFFFFF#32) rfl, decodeOfEncode 4 (.enableSupply true) rfl,
    decodeOfEncode 4 .busCycle rfl, decodeOfEncode 4 .freeRunStart rfl, decodeOfEncode 4 (.readReg .flags) rfl⟩

/-- Settles O11: the opcode is looked up first, then the length is checked, then the operand (R107, R108). -/
theorem undecodableRefused : Obligations.UndecodableRefused := by
  intro nslots
  -- a command of two bytes whose operand byte is read
  have twoBytes (op : Opcode) (width : op.length nslots = 2) (b : Byte) :
      decode nslots [op.code, b] = decodeOperands nslots op [b] := by
    rw [decode_code_cons, width]
    rfl
  refine ⟨fun b bs reserved => ?_, fun op bs wrong => ?_, fun b h0 h1 => ?_, fun b absent => ?_, fun b above => ?_⟩
  · simp only [decode, Opcode.ofByte_eq_none reserved]
  · rw [decode_code_cons, if_neg wrong]
  · have not0 : b.toNat ≠ 0 := fun h => h0 (BitVec.eq_of_toNat_eq h)
    have not1 : b.toNat ≠ 1 := fun h => h1 (BitVec.eq_of_toNat_eq h)
    refine (twoBytes .enableSupply rfl b).trans ?_
    simp only [decodeOperands, leNat_singleton, if_neg not0, if_neg not1]
  · refine (twoBytes .pinsForSlot rfl b).trans ?_
    simp only [decodeOperands, leNat_singleton, if_neg (Nat.not_lt.mpr absent)]
  · refine (twoBytes .readReg rfl b).trans ?_
    simp only [decodeOperands, leNat_singleton, BitVec.ofNat_toNat, BitVec.setWidth_eq, Reg.ofNumber_eq_none above]

end Sys2Proof

/-! ## The host port

A step is the host port's or the worker's (R100, R250, R258); the host port's command is held at the gate or answered
once (R101). -/

namespace Sys2Proof.Machine

/-! ### Who moves -/

/-- The state with one scheduling answer used up, the coming ones being `rest` (R258). -/
def State.scheduled (s : State) (rest : List Agent) : State :=
  { s with env := { s.env with schedule := rest, draws := s.env.draws + 1 } }

theorem step_idle {s : State} (host : hostReady s = false) (worker : workerReady s = false) : step s = .next s := by
  simp only [step, chooseAgent, host, worker]

theorem step_host {s : State} (host : hostReady s = true) (worker : workerReady s = false) :
    step s = hostStep s := by
  simp only [step, chooseAgent, host, worker]

theorem step_worker {s : State} (host : hostReady s = false) (worker : workerReady s = true) :
    step s = .next (workerStep s) := by
  simp only [step, chooseAgent, host, worker]

/-- When both agents can move, the one the schedule names does (R258). -/
theorem chooseAgent_scheduled {s : State} (host : hostReady s = true) (worker : workerReady s = true) {a : Agent}
    {rest : List Agent} (schedule : s.env.schedule = a :: rest) : chooseAgent s = (some a, s.scheduled rest) := by
  simp only [chooseAgent, host, worker, Env.drawAgent, schedule, State.scheduled]

theorem step_scheduled_host {s : State} (host : hostReady s = true) (worker : workerReady s = true)
    {rest : List Agent} (schedule : s.env.schedule = .host :: rest) : step s = hostStep (s.scheduled rest) := by
  simp only [step, chooseAgent_scheduled host worker schedule]

theorem step_scheduled_freerun {s : State} (host : hostReady s = true) (worker : workerReady s = true)
    {rest : List Agent} (schedule : s.env.schedule = .freerun :: rest) :
    step s = .next (workerStep (s.scheduled rest)) := by
  simp only [step, chooseAgent_scheduled host worker schedule]

/-- When both agents can move and the schedule is at its end, either may. -/
theorem step_unscheduled {s : State} (host : hostReady s = true) (worker : workerReady s = true)
    (schedule : s.env.schedule = []) :
    step s = hostStep (s.scheduled []) ∨ step s = .next (workerStep (s.scheduled [])) := by
  have drawn : s.env.drawAgent.2 = (s.scheduled []).env := by simp only [Env.drawAgent, schedule, State.scheduled]
  simp only [step, chooseAgent, host, worker]
  cases hd : s.env.drawAgent with
  | mk a e =>
    rw [hd] at drawn
    subst drawn
    cases a
    · exact .inl rfl
    · exact .inr rfl

/-- The host port has a step unless no command waits or a gate command waits for the gate (R250, R288, R300). -/
theorem hostReady_iff {s : State} :
    hostReady s = true ↔ ∃ r, fetch s = some r ∧
      ∀ j, r = .ok j → j.opcode.needsGate = true → s.mode = .failed ∨ s.gateOwner = .free := by
  unfold hostReady
  cases fetch s with
  | none => simp
  | some r =>
    cases r with
    | error e => simp
    | ok i => cases gated : i.opcode.needsGate <;> simp [gated]

theorem workerReady_iff {s : State} :
    workerReady s = true ↔ s.frRunning = true ∧ (s.frStage = .acquire → s.gateOwner = .free) := by
  simp [workerReady, imp_iff_not_or]

/-! ### The host port's step -/

theorem hostStep_ok {s : State} {i : Instr} (h : fetch s = some (.ok i)) : hostStep s = exec i s := by
  simp only [hostStep, h]

theorem hostStep_error {s : State} {e : DecodeError} (h : fetch s = some (.error e)) :
    hostStep s = .next (raiseIllegal s) := by
  simp only [hostStep, h]

/-- Settles O51: the cases are those of who can move; which command runs is read off the same port (R100). -/
theorem stepRunsDecodedCommand : Obligations.StepRunsDecodedCommand := by
  intro s i rest after
  refine ⟨fun decoded host => ⟨fun worker => ?_, fun worker schedule => ?_, fun worker schedule => ?_⟩,
    fun host worker schedule => step_scheduled_freerun host worker schedule, step_worker, step_idle, hostReady_iff,
    workerReady_iff⟩
  · rw [step_host host worker, hostStep_ok decoded]
  · exact (step_scheduled_host host worker schedule).trans (hostStep_ok decoded)
  · rcases step_unscheduled host worker schedule with hstep | hstep
    · exact .inl (hstep.trans (hostStep_ok decoded))
    · exact .inr hstep

/-- A host error outside a transaction of the host's own writes the error registers, `LAST_STATUS` and the response,
and `BUS_UNKNOWN` only for a `TransportError` (R32, R285). -/
theorem raiseHost_eq_failedWith {r : Raise} {s : State} (gate : s.gateOwner ≠ .host)
    (known : r.status ≠ .transportError) : raiseHost r s = failedWith r.status r.pin r.slot r.prim s := by
  have other : ({ recordError .host r s with lastStatus := r.status } : State).gateOwner ≠ Agent.host.owner := gate
  rw [raiseHost, abandonTxn_other _ _ other]
  simp only [respond, recordError, known, decide_false, Bool.or_false]
  rfl

theorem raiseIllegal_ready {s : State} (ready : s.mode = .ready) : raiseIllegal s = raiseHost illegalCommand s := by
  simp only [raiseIllegal, ready]

theorem raiseIllegal_failed {s : State} (failed : s.mode = .failed) :
    raiseIllegal s = respond [Status.illegalCommand.code] s := by
  simp only [raiseIllegal, failed]

/-- Settles O48: an undecodable command always has a step, so the host port takes it when the worker cannot move or the
schedule says host (R288). -/
theorem illegalCommandAnswered : Obligations.IllegalCommandAnswered := by
  intro s e rest undecodable schedule s'
  have host : hostReady s = true := hostReady_iff.mpr ⟨_, undecodable, nofun⟩
  have taken : step s = .next (raiseIllegal s') := by
    cases worker : workerReady s with
    | false =>
      have same : s' = s := if_neg (by simp [worker])
      rw [same, step_host host worker, hostStep_error undecodable]
    | true =>
      have used : s' = s.scheduled rest := if_pos worker
      rw [used, step_scheduled_host host worker (schedule worker)]
      exact hostStep_error undecodable
  have frame : s'.mode = s.mode ∧ s'.gateOwner = s.gateOwner ∧ s'.cmds = s.cmds ∧ s'.responses = s.responses := by
    simp only [s']
    split <;> exact ⟨rfl, rfl, rfl, rfl⟩
  obtain ⟨mode, gate, cmds, responses⟩ := frame
  rw [taken]
  refine ⟨fun ready notHost => ?_, fun failed => ?_⟩
  · rw [raiseIllegal_ready (mode.trans ready), raiseHost_eq_failedWith (gate ▸ notHost) (by decide)]
    rfl
  · rw [raiseIllegal_failed (mode.trans failed), respond, cmds, responses]
    rfl

/-! ### One response per command -/

/-- The configuration and the port's two queues are as before. -/
structure SamePort (s t : State) : Prop where
  cfg : t.cfg = s.cfg
  cmds : t.cmds = s.cmds
  responses : t.responses = s.responses

theorem SamePort.refl (s : State) : SamePort s s := ⟨rfl, rfl, rfl⟩

theorem SamePort.trans {s t u : State} (h : SamePort s t) (h' : SamePort t u) : SamePort s u :=
  ⟨h'.cfg.trans h.cfg, h'.cmds.trans h.cmds, h'.responses.trans h.responses⟩

theorem TxnFrame.samePort {s t : State} (h : TxnFrame s t) : SamePort s t := by
  rw [TxnFrame] at h
  exact ⟨by rw [h], by rw [h], by rw [h]⟩

theorem setPhase_samePort (p : Phase) (s : State) : SamePort s (setPhase p s) := (setPhase_frame p s).samePort

theorem releaseGate_samePort (a : Agent) (s : State) : SamePort s (releaseGate a s) := by
  constructor <;> simp

/-- The command at the head of the port has been taken off it with one response: of length `n` with status `OK` first,
or the one byte of an error (R101). -/
def AnsweredOnce (n : Nat) (s t : State) : Prop :=
  t.cmds = s.cmds.tail ∧ ∃ r, t.responses = s.responses ++ [r] ∧
    ((r.length = n ∧ r.head? = some 0x00#8) ∨ ∃ st : Status, st ≠ .ok ∧ r = [st.code])

theorem complete_answered {n : Nat} {s t : State} (port : SamePort s t) {result : List Byte}
    (len : result.length + 1 = n) : AnsweredOnce n s (complete result t) := by
  refine ⟨?_, Status.ok.code :: result, ?_, .inl ⟨len, rfl⟩⟩
  · rw [complete, respond_cmds, port.cmds]
  · rw [complete, respond_responses, port.responses]

theorem refusal_answered (n : Nat) (s : State) {st : Status} (error : st ≠ .ok) :
    AnsweredOnce n s (respond [st.code] s) :=
  ⟨rfl, _, rfl, .inr ⟨st, error, rfl⟩⟩

theorem raiseHost_answered (n : Nat) {s t : State} (port : SamePort s t) {r : Raise} (error : r.status ≠ .ok) :
    AnsweredOnce n s (raiseHost r t) := by
  refine ⟨?_, [r.status.code], ?_, .inr ⟨r.status, error, rfl⟩⟩
  · simp [raiseHost, port.cmds]
  · simp [raiseHost, port.responses]

theorem raiseIllegal_answered (n : Nat) (s : State) : AnsweredOnce n s (raiseIllegal s) := by
  cases mode : s.mode with
  | ready =>
    rw [raiseIllegal_ready mode]
    exact raiseHost_answered n (SamePort.refl s) nofun
  | failed =>
    rw [raiseIllegal_failed mode]
    exact refusal_answered n s nofun

/-- In `FAILED` mode `LAST_STATUS` is a reset error's (R300). -/
theorem lastStatus_ne_ok {s : State} (recorded : modeRecorded s = true) (failed : s.mode = .failed) :
    s.lastStatus ≠ .ok := by
  intro ok
  simp [modeRecorded, failed, ok] at recorded

/-! ### The operations under the gate -/

/-- The operation leaves the port as in `s`, and what it raises is an error. -/
structure Run.KeepsPort {α : Type} (s : State) (r : Run α) : Prop where
  port : SamePort s r.state
  errors : ∀ e t, r = .error e t → e.status ≠ .ok

theorem keepsPort_done {α : Type} {a : α} {s t : State} (port : SamePort s t) : (Run.done a t).KeepsPort s :=
  ⟨port, fun _ _ h => nomatch h⟩

theorem keepsPort_error {α : Type} {r : Raise} {s t : State} (port : SamePort s t) (error : r.status ≠ .ok) :
    (Run.error (α := α) r t).KeepsPort s :=
  ⟨port, fun _ _ h => by cases h; exact error⟩

theorem Run.KeepsPort.andThen {α β : Type} {s : State} {r : Run α} {f : α → State → Run β} (h : r.KeepsPort s)
    (hf : ∀ a t, (f a t).KeepsPort t) : (r.andThen f).KeepsPort s := by
  cases r with
  | done a t =>
    obtain ⟨port, errors⟩ := hf a t
    exact ⟨h.port.trans port, errors⟩
  | error e t => exact keepsPort_error h.port (h.errors e t rfl)

/-- A translation error is `UnmappedPin` or `UnboundDevice` (R160). -/
theorem status_ne_ok_of_fanOut {c : Config} {m : VMask} {e : Raise} (h : fanOut c m = .error e) : e.status ≠ .ok := by
  obtain ⟨k, _, _, fault, _⟩ := fanOut_error h
  unfold pinFault at fault
  split at fault
  · cases fault
    nofun
  · split at fault
    · cases fault
    · cases fault
      nofun

theorem vecWrite_keepsPort (op : MaskOp) (m : VMask) (order : List Nat) (s : State) :
    (vecWrite op m order s).KeepsPort s := by
  refine ⟨(vecWrite_frame op m order s).samePort, fun e t raised => ?_⟩
  rcases vecWrite_cases op m order s with ⟨e', fault, h⟩ | ⟨L, _, ⟨k, _, u, _, h⟩ | ⟨u, _, _, h⟩⟩ <;>
    rw [h] at raised <;> cases raised
  · exact status_ne_ok_of_fanOut fault
  · nofun

theorem vecRead_keepsPort (s : State) : (vecRead s).KeepsPort s := by
  rcases vecRead_cases s with ⟨k, _, t, hd, _, h⟩ | ⟨I, t, hd, _, h⟩ <;> rw [h]
  · exact keepsPort_error hd.txnFrame.samePort nofun
  · exact keepsPort_done hd.txnFrame.samePort

theorem issueAll_keepsPort (p : Nat → Prim) (ks : List Nat) (s : State) : (issueAll p ks s).KeepsPort s := by
  refine ⟨(issueAll_devRun p ks s).txnFrame.samePort, fun e t raised => ?_⟩
  obtain ⟨k, _, rfl⟩ := issueAll_error raised
  nofun

theorem precheck_keepsPort (s : State) : (precheck s).KeepsPort s := by
  unfold precheck
  split
  · exact keepsPort_done (setPhase_samePort .floating s)
  · rename_i invalid
    exact keepsPort_error (SamePort.refl s) invalid

theorem sampleBus_keepsPort (s : State) : (sampleBus s).KeepsPort s :=
  (vecRead_keepsPort s).andThen fun _ _ => keepsPort_done ⟨rfl, rfl, rfl⟩

theorem writeSample_keepsPort (s : State) : (writeSample s).KeepsPort s :=
  (vecRead_keepsPort s).andThen fun _ _ => keepsPort_done ⟨rfl, rfl, rfl⟩

theorem readDrive_keepsPort (s : State) : (readDrive s).KeepsPort s :=
  (vecWrite_keepsPort ..).andThen fun _ t =>
    Run.KeepsPort.andThen (keepsPort_done (TxnStage.run_frame .readFetch t).samePort) fun _ _ =>
      (vecWrite_keepsPort ..).andThen fun _ _ => vecWrite_keepsPort ..

theorem writeCapture_keepsPort (s : State) : (writeCapture s).KeepsPort s :=
  (vecWrite_keepsPort ..).andThen fun _ t =>
    (writeSample_keepsPort t).andThen fun _ u =>
      Run.KeepsPort.andThen (keepsPort_done (TxnStage.run_frame .writeStore u).samePort) fun _ _ =>
        vecWrite_keepsPort ..

/-- An operation after a change of phase. -/
theorem Run.KeepsPort.after {α : Type} {s t : State} {r : Run α} (port : SamePort s t) (h : r.KeepsPort t) :
    r.KeepsPort s :=
  ⟨port.trans h.port, h.errors⟩

theorem transaction_keepsPort (s : State) : (transaction s).KeepsPort s := by
  have branch (t : State) : SamePort t (branchPhase t) := (TxnStage.run_frame .branch t).samePort
  have settled (t : State) : SamePort t (setPhase .idle (settleRecord (setPhase .settled t))) :=
    ((setPhase_samePort .settled t).trans (TxnStage.run_frame .settle _).samePort).trans (setPhase_samePort .idle _)
  refine (precheck_keepsPort s).andThen fun _ t => ?_
  refine (vecWrite_keepsPort ..).andThen fun _ u => ?_
  refine ((sampleBus_keepsPort _).after (setPhase_samePort .sampled u)).andThen fun _ v => ?_
  refine Run.KeepsPort.andThen ?_ fun _ w => keepsPort_done (settled w)
  cases v.curDir with
  | read => exact (readDrive_keepsPort _).after (branch v)
  | write => exact (writeCapture_keepsPort _).after (branch v)

/-! ### Commands -/

/-- The command is held at the gate with nothing changed, or answered once. -/
def HeldOrAnswered (i : Instr) (s t : State) : Prop :=
  (t = s ∧ i.opcode.needsGate = true ∧ s.gateOwner ≠ .free) ∨ AnsweredOnce (i.opcode.okLength s.cfg.nslots) s t

/-- A command that is refused in `FAILED` mode is answered there with the error that the mode records (R300). -/
theorem whenReady_heldOrAnswered {i : Instr} {s : State} (recorded : modeRecorded s = true) {body : State → State}
    (h : HeldOrAnswered i s (body s)) : HeldOrAnswered i s (whenReady s body) := by
  rcases whenReady_cases s body with ⟨_, hw⟩ | ⟨failed, hw⟩ <;> rw [hw]
  · exact h
  · exact .inr (refusal_answered _ s (lastStatus_ne_ok recorded failed))

/-- A gate command is held, or answered once, if its body keeps the port and its result has the length R106 gives. -/
theorem withGate_heldOrAnswered {i : Instr} {s : State} (gated : i.opcode.needsGate = true)
    {body : State → Run (List Byte)} (keeps : (body { s with gateOwner := .host }).KeepsPort s)
    (len : ∀ bytes t, body { s with gateOwner := .host } = .done bytes t →
      bytes.length + 1 = i.opcode.okLength s.cfg.nslots) :
    HeldOrAnswered i s (withGate s body) := by
  obtain ⟨port, errors⟩ := keeps
  rcases withGate_cases s body with ⟨held, hw⟩ | ⟨_, bytes, t, hb, hw⟩ | ⟨_, e, t, hb, hw⟩ <;> rw [hw]
  · exact .inl ⟨rfl, gated, held⟩
  · rw [hb, Run.state_done] at port
    exact .inr (complete_answered (port.trans (releaseGate_samePort .host t)) (len bytes t hb))
  · rw [hb, Run.state_error] at port
    exact .inr (raiseHost_answered _ port (errors e t hb))

/-- A command that runs one operation under the gate and answers with what it gives (R250). -/
theorem gateCommand_heldOrAnswered {α : Type} {i : Instr} {s : State} (recorded : modeRecorded s = true)
    (gated : i.opcode.needsGate = true) {op : State → Run α} {result : α → State → List Byte}
    (keeps : ∀ u, (op u).KeepsPort u)
    (len : ∀ a t, t.cfg = s.cfg → (result a t).length + 1 = i.opcode.okLength s.cfg.nslots) :
    HeldOrAnswered i s (whenReady s fun s => withGate s fun s => (op s).andThen fun a t => .done (result a t) t) := by
  have taken : SamePort s { s with gateOwner := .host } := ⟨rfl, rfl, rfl⟩
  have operation := (keeps { s with gateOwner := .host }).after taken
  refine whenReady_heldOrAnswered recorded (withGate_heldOrAnswered gated ?_ fun bytes t hb => ?_)
  · exact operation.andThen fun _ t => keepsPort_done (SamePort.refl t)
  · obtain ⟨a, u, hop, hdone⟩ := Run.andThen_eq_done hb
    cases hdone
    have port := operation.port
    rw [hop] at port
    exact len a t port.cfg

theorem maskedWrite_heldOrAnswered {i : Instr} {s : State} (recorded : modeRecorded s = true)
    (gated : i.opcode.needsGate = true) (okLength : i.opcode.okLength s.cfg.nslots = 1) (op : MaskOp) (m : VMask) :
    HeldOrAnswered i s (maskedWrite op m s) :=
  gateCommand_heldOrAnswered recorded gated (fun _ => vecWrite_keepsPort ..) fun _ _ _ => okLength.symm

theorem supplyWrite_heldOrAnswered {i : Instr} {s : State} (recorded : modeRecorded s = true)
    (gated : i.opcode.needsGate = true) (okLength : i.opcode.okLength s.cfg.nslots = 1) (p : Prim) :
    HeldOrAnswered i s (supplyWrite p s) :=
  gateCommand_heldOrAnswered recorded gated (fun _ => issueAll_keepsPort ..) fun _ _ _ => okLength.symm

theorem exec_heldOrAnswered {i : Instr} {s t : State} (recorded : modeRecorded s = true) (h : exec i s = .next t) :
    HeldOrAnswered i s t := by
  have query {body : State → State} (hbody : AnsweredOnce (i.opcode.okLength s.cfg.nslots) s (body s)) :
      HeldOrAnswered i s (whenReady s body) :=
    whenReady_heldOrAnswered recorded (.inr hbody)
  have here : SamePort s s := SamePort.refl s
  cases i <;> cases h
  case resolve vpin =>
    apply query
    split
    · exact raiseHost_answered _ here nofun
    · exact complete_answered here rfl
  case pinsForSlot slot =>
    split
    · exact query (complete_answered here (by simp [Instr.opcode, Opcode.okLength, Nat.add_comm]))
    · exact .inr (raiseIllegal_answered _ s)
  case fanOut m =>
    apply query
    split
    · exact raiseHost_answered _ here (status_ne_ok_of_fanOut ‹_›)
    · exact complete_answered here (by simp [Instr.opcode, Opcode.okLength, Nat.add_comm])
  case aggregate I =>
    exact query (complete_answered here (by simp [Instr.opcode, Opcode.okLength, Nat.add_comm]))
  case drive m => exact maskedWrite_heldOrAnswered recorded rfl rfl .output m
  case triState m => exact maskedWrite_heldOrAnswered recorded rfl rfl .tristate m
  case read =>
    refine gateCommand_heldOrAnswered recorded rfl vecRead_keepsPort fun _ u cfg => ?_
    simp [cfg, Instr.opcode, Opcode.okLength, Nat.add_comm]
  case assignGround m => exact maskedWrite_heldOrAnswered recorded rfl rfl .groundPins m
  case assignSupplyPins m => exact maskedWrite_heldOrAnswered recorded rfl rfl .supplyPins m
  case setSupplyVoltage level => exact supplyWrite_heldOrAnswered recorded rfl rfl (.setSupplyVoltage level.toInt)
  case enableSupply on => exact supplyWrite_heldOrAnswered recorded rfl rfl (.enableSupply on)
  case busCycle => exact gateCommand_heldOrAnswered recorded rfl transaction_keepsPort fun _ _ _ => rfl
  case freeRunStart =>
    apply query
    split
    · exact complete_answered here rfl
    · exact complete_answered ⟨rfl, rfl, rfl⟩ rfl
  case freeRunCancel =>
    apply query
    split
    · exact complete_answered ⟨rfl, rfl, rfl⟩ rfl
    · exact complete_answered here rfl
  case readReg r => exact .inr ⟨rfl, _, rfl, .inl ⟨rfl, rfl⟩⟩

/-- Settles O50: the one response is the result or the code of an error that some operation raised; in `FAILED` mode it
is the code of the reset error that the mode records. -/
theorem oneResponsePerCommand : Obligations.OneResponsePerCommand :=
  fun _ _ _ recorded h => exec_heldOrAnswered recorded h

end Sys2Proof.Machine

/-! ## The registry

Construction of the registry accepts entries up to the first bad one and ends with its error (R144, R146, R321); once
reset has ended in `READY`, `RESOLVE` and `PINS_FOR_SLOT` look the registry up and change nothing else (R141 to R143). -/

namespace Sys2Proof.Machine

/-! ### The first bad entry -/

/-- The range of R144, each bound an integer inequality. -/
theorem entryInRange_iff {c : Config} {e : Entry} :
    entryInRange c e = true ↔
      1 ≤ e.vpin ∧ e.vpin ≤ (40 * c.nslots : Nat) ∧ 0 ≤ e.slot ∧ e.slot < (c.nslots : Nat) ∧
      1 ≤ e.localPin ∧ e.localPin ≤ 40 := by
  simp [entryInRange, Config.numPins, and_assoc]

/-- Two entries clash when they give the same virtual pin or target the same (slot, local pin). -/
theorem entriesClash_iff {d e : Entry} :
    entriesClash d e = true ↔ d.vpin = e.vpin ∨ (d.slot = e.slot ∧ d.localPin = e.localPin) := by
  simp [entriesClash, or_comm]

/-- The error of a list is that of its first part, if that has one, else that of the rest, compared with the entries
accepted so far. -/
theorem constructFrom_append (c : Config) (seen good rest : List Entry) :
    constructFrom c seen (good ++ rest) =
      (constructFrom c seen good).or (constructFrom c (good.reverse ++ seen) rest) := by
  induction good generalizing seen with
  | nil => rfl
  | cons d ds ih =>
    have reached : (d :: ds).reverse ++ seen = ds.reverse ++ d :: seen := by simp
    rw [List.cons_append, constructFrom, constructFrom, reached]
    split
    · split
      · rfl
      · exact ih (d :: seen)
    · rfl

/-- The first entry that is out of range, or else clashes with an accepted one, ends construction with its error. -/
theorem constructRegistry_first_bad {c : Config} {good bad : List Entry} {e : Entry}
    (registry : c.registry = good ++ e :: bad) (wf : registryWf { c with registry := good } = true) :
    (entryInRange c e = false → constructRegistry c = some (registryError e .pinOutOfRange)) ∧
    (entryInRange c e = true → (∃ d ∈ good, entriesClash d e = true) →
      constructRegistry c = some (registryError e .duplicatePin)) := by
  have accepted : constructFrom c [] good = none := by
    have alone : constructFrom { c with registry := good } [] good = none := constructRegistry_eq_none.mpr wf
    obtain ⟨inRange, fresh, apart⟩ := constructFrom_eq_none.mp alone
    exact constructFrom_eq_none.mpr ⟨inRange, fresh, apart⟩
  have atEntry : constructRegistry c = constructFrom c good.reverse (e :: bad) := by
    rw [constructRegistry, registry, constructFrom_append, accepted, List.append_nil, Option.none_or]
  rw [atEntry]
  refine ⟨fun outOfRange => by simp [constructFrom, outOfRange], fun inRange clash => ?_⟩
  have seen : (good.reverse.any fun d => entriesClash d e) = true := by simpa using clash
  simp [constructFrom, inRange, seen]

/-- A construction error ends reset before any primitive, with the RoleMap check not computed (R320, R321). -/
theorem boot_of_constructRegistry {c : Config} {r : Raise} (h : constructRegistry c = some r) (env : Env) :
    boot c env = bootFailed r [] env := by
  simp only [boot, h]

/-- Settles O3: construction reaches the entry after accepting those before it, and its error is all that reset
records. -/
theorem resetFailsAtFirstBadEntry : Obligations.ResetFailsAtFirstBadEntry := by
  intro c env good bad e registry wf s failed inRange
  have records {st : Status} (h : constructRegistry c = some (registryError e st)) : failed st := by
    simp only [failed, s, State.resetWith, boot_of_constructRegistry h]
    exact ⟨rfl, rfl, rfl, rfl, rfl, rfl, rfl, rfl, rfl, rfl⟩
  obtain ⟨range, duplicate⟩ := constructRegistry_first_bad registry wf
  refine ⟨fun outOfRange => records (range ?_), fun within ⟨d, hd, clash⟩ => records (duplicate ?_ ⟨d, hd, ?_⟩)⟩
  · exact Bool.eq_false_iff.mpr fun h => outOfRange (entryInRange_iff.mp h)
  · exact entryInRange_iff.mpr within
  · exact entriesClash_iff.mpr clash

/-! ### The queries of the registry -/

/-- In `READY` mode a command's body runs (R300). -/
theorem whenReady_ready {s : State} (ready : s.mode = .ready) (body : State → State) :
    whenReady s body = body s := by
  simp only [whenReady, ready]

/-- A command that completes changes nothing but `LAST_STATUS` and the response (R31, R101). -/
theorem complete_eq_answeredWith (result : List Byte) (s : State) : complete result s = answeredWith result s := rfl

theorem exec_resolve_mapped {s : State} {vpin : BitVec 16} (ready : s.mode = .ready) {k l : Nat}
    (mapped : res s.cfg (Int.ofNat vpin.toNat) = some (k, l)) :
    exec (.resolve vpin) s = .next (complete [BitVec.ofNat 8 k, BitVec.ofNat 8 l] s) := by
  simp only [exec, execResolve, whenReady_ready ready, mapped]

theorem exec_resolve_unmapped {s : State} {vpin : BitVec 16} (ready : s.mode = .ready)
    (unmapped : res s.cfg (Int.ofNat vpin.toNat) = none) :
    exec (.resolve vpin) s = .next (raiseHost (unmappedPin (Int.ofNat vpin.toNat)) s) := by
  simp only [exec, execResolve, whenReady_ready ready, unmapped]

theorem exec_pinsForSlot_lt {s : State} {slot : Byte} (ready : s.mode = .ready) (inside : slot.toNat < s.cfg.nslots) :
    exec (.pinsForSlot slot) s =
      .next (complete (vmaskBytes s.cfg.nslots (pinsForSlot s.cfg slot.toNat)) s) := by
  simp only [exec, execPinsForSlot, whenReady_ready ready, if_pos inside]

theorem exec_pinsForSlot_ge {s : State} {slot : Byte} (outside : s.cfg.nslots ≤ slot.toNat) :
    exec (.pinsForSlot slot) s = .next (raiseIllegal s) := by
  simp only [exec, execPinsForSlot, if_neg (Nat.not_lt.mpr outside)]

/-- Membership in `pins_for_slot` (R142). -/
theorem pinOnSlot_iff {c : Config} {s : Nat} {p : VPin} : pinOnSlot c s p = true ↔ ∃ l, res c p = some (s, l) := by
  unfold pinOnSlot
  cases res c p with
  | none => simp
  | some tl => simp [Prod.ext_iff]

/-- Bit `k` of a laid-out mask is bit `k` of the mask (R103). -/
theorem maskBit_vmaskBytes {n k : Nat} (m : VMask) (hk : k < 40 * n) :
    maskBit (vmaskBytes n m) k = m.getLsbD k :=
  getLsbD_leBytes m.toNat (by omega)

/-- Settles O18: bit `k` of the answer is the membership of pin `k+1` in the slot's set; a slot outside the enumeration
raises `IllegalCommand` before any look-up. -/
theorem pinsForSlotAnswers : Obligations.PinsForSlotAnswers := by
  intro s slot ready notHost hn
  refine ⟨fun inside => ⟨_, exec_pinsForSlot_lt ready inside, length_vmaskBytes _ _, fun k hk => ?_⟩,
    fun outside _ => ?_⟩
  · rw [maskBit_vmaskBytes _ hk, pinsForSlot, getLsbD_pinMask_of_lt _ hn hk, pinOnSlot_iff]
    rfl
  · rw [exec_pinsForSlot_ge outside, raiseIllegal_ready ready, raiseHost_eq_failedWith notHost (by decide)]
    rfl

/-- Settles O17: the operand is a pin of the registry or raises its own number, which fits `ERR_PIN`. -/
theorem resolveAnswers : Obligations.ResolveAnswers := by
  intro s vpin ready notHost
  refine ⟨fun k l mapped => ?_, fun unmapped => ?_⟩
  · rw [exec_resolve_mapped ready mapped, complete_eq_answeredWith]
  · have known : (unmappedPin (Int.ofNat vpin.toNat)).status ≠ .transportError := nofun
    have pin : (unmappedPin (Int.ofNat vpin.toNat)).pin = vpin := by simp [unmappedPin]
    rw [exec_resolve_unmapped ready unmapped, raiseHost_eq_failedWith notHost known, pin]
    rfl

end Sys2Proof.Machine

/-! ## The virtual bus

What fan-out and fan-in compute (R160, R162), that fan-in undoes fan-out on usable pins (R173), and the two queries that
answer them and change nothing else (R161, R163). -/

namespace Sys2Proof.Machine

/-! ### Fan-out (R160) -/

/-- A pin's fault is `UnmappedPin` if it has no entry, and `UnboundDevice` if its slot is unbound. -/
theorem pinFault_eq_some {c : Config} {p : VPin} {e : Raise} :
    pinFault c p = some e ↔
      (res c p = none ∧ e = unmappedPin p) ∨
      ∃ s l, res c p = some (s, l) ∧ c.isBound s = false ∧ e = unboundDevice p s := by
  unfold pinFault
  cases res c p with
  | none => simp [@eq_comm _ e]
  | some sl =>
    obtain ⟨s, l⟩ := sl
    cases bound : c.isBound s <;> simp [Prod.ext_iff, and_assoc, bound, @eq_comm _ e]

/-- A translation error is not a `TransportError`, and records no primitive (R281). -/
theorem fault_of_fanOut {c : Config} {m : VMask} {e : Raise} (h : fanOut c m = .error e) :
    e.status ≠ .transportError ∧ e.prim = noneByte := by
  obtain ⟨k, _, _, fault, _⟩ := fanOut_error h
  rcases pinFault_eq_some.mp fault with ⟨_, rfl⟩ | ⟨s, _, _, _, rfl⟩ <;> exact ⟨nofun, rfl⟩

/-- Local masks are equal when they agree on every local bit of every slot. -/
theorem lmasks_ext {L M : PerSlot LMask}
    (h : ∀ s j, s < 4 → j < 40 → ((L.get s).getLsbD j = true ↔ (M.get s).getLsbD j = true)) : L = M :=
  PerSlot.ext_get fun s hs => BitVec.eq_of_getLsbD_eq fun j hj => Bool.eq_iff_iff.mpr (h s j hs hj)

theorem fanOut_eq_ok {c : Config} {m : VMask} {L : PerSlot LMask} :
    fanOut c m = .ok L ↔
      (∀ k, k < c.numPins → m.getLsbD k = true → pinFault c (pinOfBit k) = none) ∧
      ∀ s j, s < 4 → j < 40 →
        ((L.get s).getLsbD j = true ↔
          ∃ k, k < c.numPins ∧ m.getLsbD k = true ∧ ∃ l, res c (pinOfBit k) = some (s, l) ∧ j = l - 1) := by
  constructor
  · intro h
    have usable := usable_of_fanOut h
    obtain ⟨M, hM, bits⟩ := fanOut_of_usable usable
    cases h.symm.trans hM
    exact ⟨usable, bits⟩
  · rintro ⟨usable, bits⟩
    obtain ⟨M, hM, bitsM⟩ := fanOut_of_usable usable
    have same : L = M := lmasks_ext fun s j hs hj => (bits s j hs hj).trans (bitsM s j hs hj).symm
    rw [hM, same]

/-- Fan-out fails with the fault of the lowest set pin that has one. -/
theorem fanOut_eq_error {c : Config} {m : VMask} {e : Raise} :
    fanOut c m = .error e ↔
      ∃ k, k < c.numPins ∧ m.getLsbD k = true ∧
        (∀ j, j < k → m.getLsbD j = true → pinFault c (pinOfBit j) = none) ∧ pinFault c (pinOfBit k) = some e := by
  constructor
  · intro h
    obtain ⟨k, hk, set, fault, below⟩ := fanOut_error h
    exact ⟨k, hk, set, below, fault⟩
  · rintro ⟨k, hk, set, below, fault⟩
    cases h : fanOut c m with
    | ok L => exact absurd (usable_of_fanOut h k hk set) (by simp [fault])
    | error e' =>
      obtain ⟨k', _, set', fault', below'⟩ := fanOut_error h
      have lowest : k' = k := by
        rcases Nat.lt_trichotomy k' k with lower | same | higher
        · exact absurd (below k' lower set') (by simp [fault'])
        · exact same
        · exact absurd (below' k higher set) (by simp [fault])
      rw [lowest, fault] at fault'
      cases fault'
      rfl

/-- A mask bit's pin number, as an error register records it. -/
theorem ofInt_pinOfBit (k : Nat) : BitVec.ofInt 16 (pinOfBit k) = BitVec.ofNat 16 (k + 1) :=
  BitVec.ofInt_natCast 16 (k + 1)

/-- Settles O12: a set pin is usable, or its fault is the error. -/
theorem fanOutFunction : Obligations.FanOutFunction := by
  intro c m
  refine ⟨fun L => ?_, fun e => ?_⟩
  · rw [fanOut_eq_ok]
    simp only [pinFault_eq_none]
    rfl
  · rw [fanOut_eq_error]
    simp only [pinFault_eq_none, pinFault_eq_some, unmappedPin, unboundDevice, ofInt_pinOfBit]
    rfl

/-! ### Fan-in (R162) -/

theorem fannedIn_iff {c : Config} {I : PerSlot LMask} {p : VPin} :
    fannedIn c I p = true ↔
      ∃ t l, res c p = some (t, l) ∧ c.isBound t = true ∧ (I.get t).getLsbD (l - 1) = true := by
  unfold fannedIn
  cases res c p with
  | none => simp
  | some sl => simp [Prod.ext_iff, and_assoc]

/-- A bit of the fan-in is its pin's local bit, if the pin maps to a bound slot. -/
theorem getLsbD_aggregate {c : Config} (I : PerSlot LMask) {k : Nat} (hn : c.nslots ≤ 4) (hk : k < 40 * c.nslots) :
    (aggregate c I).getLsbD k = true ↔
      ∃ t l, res c (pinOfBit k) = some (t, l) ∧ c.isBound t = true ∧ (I.get t).getLsbD (l - 1) = true := by
  rw [aggregate, getLsbD_pinMask_of_lt _ hn hk, fannedIn_iff]

/-- In a well-formed pin table local pins are `1..40` (R144). -/
theorem local_of_res {c : Config} (wf : registryWf c = true) {p : VPin} {s l : Nat} (hp : res c p = some (s, l)) :
    1 ≤ l ∧ l ≤ 40 := by
  obtain ⟨inRange, _⟩ := constructFrom_eq_none.mp (constructRegistry_eq_none.mpr wf)
  obtain ⟨d, hd, _, _, rfl⟩ := mem_registry_of_res hp
  obtain ⟨_, _, _, _, low, high⟩ := entryInRange_iff.mp (inRange d hd)
  omega

/-- In a well-formed pin table two pins on the same local pin of a slot are one (R65, R145). -/
theorem res_injective {c : Config} (wf : registryWf c = true) {p q : VPin} {s l : Nat} (hp : res c p = some (s, l))
    (hq : res c q = some (s, l)) : p = q := by
  obtain ⟨inRange, _, apart⟩ := constructFrom_eq_none.mp (constructRegistry_eq_none.mpr wf)
  obtain ⟨d, hd, rfl, dslot, dlocal⟩ := mem_registry_of_res hp
  obtain ⟨e, he, rfl, eslot, elocal⟩ := mem_registry_of_res hq
  obtain ⟨_, _, dslot_nonneg, _, dlocal_pos, _⟩ := entryInRange_iff.mp (inRange d hd)
  obtain ⟨_, _, eslot_nonneg, _, elocal_pos, _⟩ := entryInRange_iff.mp (inRange e he)
  by_contra different
  have symmetric : Std.Symm fun d e : Entry => entriesClash d e = false :=
    ⟨fun _ _ h => entriesClash_eq_false.mpr <|
      (entriesClash_eq_false.mp h).imp Ne.symm fun apart ⟨slot, localPin⟩ => apart ⟨slot.symm, localPin.symm⟩⟩
  obtain ⟨_, otherPlace⟩ := entriesClash_eq_false.mp (apart.forall hd he fun same => different (congrArg _ same))
  exact otherPlace ⟨by omega, by omega⟩

/-- Settles O13: a bit of fan-in of fan-out is set by a pin on the same local pin, which is the bit's own. -/
theorem fanInOfFanOut : Obligations.FanInOfFanOut := by
  intro c m hn wf usable
  obtain ⟨L, translates, bits⟩ := fanOut_of_usable fun k _ set => pinFault_eq_none.mpr (usable k set).2
  refine ⟨L, translates, BitVec.eq_of_getLsbD_eq fun k _ => Bool.eq_iff_iff.mpr ?_⟩
  by_cases hk : k < 40 * c.nslots
  · rw [getLsbD_aggregate L hn hk]
    constructor
    · rintro ⟨t, l, mapped, bound, set⟩
      obtain ⟨i, _, seti, l', mapped', sameLocal⟩ :=
        (bits t (l - 1) (Config.isBound_lt bound) (BitVec.lt_of_getLsbD set)).mp set
      obtain ⟨low, _⟩ := local_of_res wf mapped
      obtain ⟨low', _⟩ := local_of_res wf mapped'
      obtain rfl : l = l' := by omega
      have sameBit := congrArg bitOfPin (res_injective wf mapped mapped')
      rw [bitOfPin_pinOfBit, bitOfPin_pinOfBit] at sameBit
      rwa [sameBit]
    · intro set
      obtain ⟨_, t, l, mapped, bound⟩ := usable k set
      obtain ⟨_, high⟩ := local_of_res wf mapped
      exact ⟨t, l, mapped, bound,
        (bits t (l - 1) (Config.isBound_lt bound) (by omega)).mpr ⟨k, hk, set, l, mapped, rfl⟩⟩
  · have outside : ¬ k < c.numPins := hk
    refine iff_of_false ?_ fun set => hk (usable k set).1
    simp [aggregate, outside]

/-! ### The queries -/

theorem exec_fanOut_ok {s : State} {m : VMask} {L : PerSlot LMask} (ready : s.mode = .ready)
    (translates : fanOut s.cfg m = .ok L) :
    exec (.fanOut m) s = .next (complete (lmasksBytes s.cfg.nslots L) s) := by
  simp only [exec, execFanOut, whenReady_ready ready, translates]

theorem exec_fanOut_error {s : State} {m : VMask} {e : Raise} (ready : s.mode = .ready)
    (fails : fanOut s.cfg m = .error e) : exec (.fanOut m) s = .next (raiseHost e s) := by
  simp only [exec, execFanOut, whenReady_ready ready, fails]

theorem exec_aggregate {s : State} (ready : s.mode = .ready) (I : PerSlot LMask) :
    exec (.aggregate I) s = .next (complete (vmaskBytes s.cfg.nslots (aggregate s.cfg I)) s) := by
  simp only [exec, execAggregate, whenReady_ready ready]

/-- A bit of a laid-out list of local masks is the bit of its slot's mask (R102, R104). -/
theorem maskBit_lmasksBytes {n k j : Nat} (L : PerSlot LMask) (hk : k < n) (hj : j < 40) :
    maskBit ((lmasksBytes n L).drop (5 * k)) j = (L.get k).getLsbD j := by
  have slice := slice_flatMap (fun i => length_lmaskBytes (L.get i)) hk
  have inSlice : j / 8 < 5 := by omega
  calc maskBit ((lmasksBytes n L).drop (5 * k)) j
      = maskBit (((lmasksBytes n L).drop (5 * k)).take 5) j := by
        simp only [maskBit, List.getD_eq_getElem?_getD, List.getElem?_take_of_lt inSlice]
    _ = maskBit (lmaskBytes (L.get k)) j := by rw [lmasksBytes, slice]
    _ = (L.get k).getLsbD j := getLsbD_leBytes _ (by omega)

/-- Settles O19: the answer is fan-out's masks laid out, of which an unbound slot's is empty. -/
theorem fanOutAnswers : Obligations.FanOutAnswers := by
  intro s m ready notHost hn
  refine ⟨fun L translates => ⟨_, exec_fanOut_ok ready translates, length_lmasksBytes _ _, fun k j hk hj => ?_⟩,
    fun e fails => ?_⟩
  · rw [maskBit_lmasksBytes L hk hj]
    refine ⟨rfl, fun unbound => ?_⟩
    rw [fanOut_unbound translates (by omega) unbound, BitVec.getLsbD_zero]
  · obtain ⟨known, noPrim⟩ := fault_of_fanOut fails
    rw [exec_fanOut_error ready fails, raiseHost_eq_failedWith notHost known, noPrim]
    rfl

/-- Settles O20: the answer is the fan-in laid out. -/
theorem aggregateAnswers : Obligations.AggregateAnswers := by
  intro s I ready hn
  refine ⟨_, exec_aggregate ready I, length_vmaskBytes _ _, fun k hk => ?_⟩
  rw [maskBit_vmaskBytes _ hk, getLsbD_aggregate I hn hk]
  rfl

end Sys2Proof.Machine

/-! ## The commands under the gate

A vector command holds the gate for one operation (R250, R251). The hold itself leaves nothing behind, so it is said
once for every such command; what is left to say of each command is the state its operation ends in. -/

namespace Sys2Proof.Machine

/-! ### The hold -/

/-- The host's release of a gate it took from a state in which it was free gives that state back. -/
theorem releaseGate_held {t : State} (free : t.gateOwner = .free) :
    releaseGate .host { t with gateOwner := .host } = t := by
  show ({ t with gateOwner := .free } : State) = t
  rw [← free]

/-- In a hold outside a transaction there is only the gate to give up (R285). -/
theorem abandonTxn_held {t : State} (free : t.gateOwner = .free) (idle : t.phase = .idle) :
    abandonTxn .host { t with gateOwner := .host } = t := by
  have stays := setPhase_same .idle { t with gateOwner := .host } idle
  rw [abandonTxn_owner .host _ rfl, stays, ← free]

/-- A host error in a command that holds the gate and is in no transaction: the gate is free again, and `BUS_UNKNOWN` is
set by a `TransportError` only (R32, R285). -/
theorem raiseHost_held {r : Raise} {t : State} (free : t.gateOwner = .free) (idle : t.phase = .idle) :
    raiseHost r { t with gateOwner := .host } =
      failedWith r.status r.pin r.slot r.prim
        { t with busUnknown := t.busUnknown || decide (r.status = .transportError) } := by
  have abandoned := abandonTxn_held (t := { recordError .host r t with lastStatus := r.status }) free idle
  exact congrArg (respond [r.status.code]) abandoned

/-- A command that holds the gate for one operation and answers with what that gives (R250, R251). -/
def gateCommand {α : Type} (op : State → Run α) (result : α → State → List Byte) (s : State) : State :=
  whenReady s fun s => withGate s fun s => (op s).andThen fun a t => .done (result a t) t

theorem maskedWrite_eq_gateCommand (op : MaskOp) (m : VMask) (s : State) :
    maskedWrite op m s = gateCommand (fun s => vecWrite op m s.cfg.boundSlots s) (fun _ _ => []) s := rfl

theorem supplyWrite_eq_gateCommand (p : Prim) (s : State) :
    supplyWrite p s = gateCommand (fun s => issueAll (fun _ => p) s.cfg.boundSlots s) (fun _ _ => []) s := rfl

theorem exec_read_eq_gateCommand (s : State) :
    exec .read s = .next (gateCommand vecRead (fun input t => vmaskBytes t.cfg.nslots input) s) := rfl

section Hold

variable {α : Type} {op : State → Run α} {result : α → State → List Byte} {s t : State}

/-- A gate command whose operation completes changes what the operation changed, and answers. -/
theorem gateCommand_done {a : α} (ready : s.mode = .ready) (free : s.gateOwner = .free)
    (freeAfter : t.gateOwner = .free)
    (h : op { s with gateOwner := .host } = .done a { t with gateOwner := .host }) :
    gateCommand op result s = answeredWith (result a { t with gateOwner := .host }) t := by
  rw [gateCommand, whenReady_ready ready]
  simp only [withGate, free, h, Run.andThen_done, releaseGate_held freeAfter, complete_eq_answeredWith]

/-- A gate command whose operation raises ends as the raise does. -/
theorem gateCommand_error {r : Raise} (ready : s.mode = .ready) (free : s.gateOwner = .free)
    (h : op { s with gateOwner := .host } = .error r { t with gateOwner := .host }) :
    gateCommand op result s = raiseHost r { t with gateOwner := .host } := by
  rw [gateCommand, whenReady_ready ready]
  simp only [withGate, free, h, Run.andThen_error]

/-- A gate command whose operation raises `TransportError` at slot `k`. -/
theorem gateCommand_transportError {k : Nat} {p : Prim} (ready : s.mode = .ready) (free : s.gateOwner = .free)
    (freeAfter : t.gateOwner = .free) (idle : t.phase = .idle)
    (h : op { s with gateOwner := .host } = .error (transportError k p) { t with gateOwner := .host }) :
    gateCommand op result s =
      failedWith .transportError 0#16 (BitVec.ofNat 8 k) p.code { t with busUnknown := true } := by
  rw [gateCommand_error ready free h, raiseHost_held freeAfter idle]
  simp [transportError]

end Hold

/-! ### One primitive per bound slot -/

/-- The state after each bound slot's primitive completed, the transport answers left being `rest` (R71, R164). -/
def allIssued (p : Nat → Prim) (rest : List Bool) (s : State) : State :=
  { s with ports := portsWith s.cfg (fun k d => (p k).apply d) s.ports,
           trace := s.trace ++ s.cfg.boundSlots.map (fun k => .dev k (p k) .ok),
           env := { s.env with transport := rest, draws := s.env.draws + s.cfg.boundSlots.length } }

/-- The state after the primitives of the slots `before` completed and slot `k`'s raised, the transport answers left
being `rest` (R71, R73, R164). -/
def stoppedAt (p : Nat → Prim) (before : List Nat) (k : Nat) (rest : List Bool) (s : State) : State :=
  { s with ports := PerSlot.tabulate fun j =>
             if j ∈ before then (p j).apply (s.ports.get j)
             else if j = k then (p j).spoil (s.ports.get j)
             else s.ports.get j,
           trace := s.trace ++ before.map (fun j => .dev j (p j) .ok) ++ [.dev k (p k) .transportError],
           env := { s.env with transport := rest, draws := s.env.draws + (before.length + 1) } }

theorem issueAll_append (p : Nat → Prim) (ks js : List Nat) (s : State) :
    issueAll p (ks ++ js) s = (issueAll p ks s).andThen fun _ t => issueAll p js t := by
  induction ks generalizing s with
  | nil => rfl
  | cons k ks ih =>
    simp only [List.cons_append, issueAll]
    cases issue k (p k) s with
    | done a t => exact ih t
    | error e t => rfl

theorem readAll_append (ks js : List Nat) (I : PerSlot LMask) (s : State) :
    readAll (ks ++ js) I s = (readAll ks I s).andThen fun J t => readAll js J t := by
  induction ks generalizing I s with
  | nil => rfl
  | cons k ks ih =>
    simp only [List.cons_append, readAll]
    cases issueRead k s with
    | done a t => exact ih _ t
    | error e t => rfl

/-- A slot of a split of the bound slots is one of the four, and not among those before it. -/
theorem boundSlots_split {c : Config} {before after : List Nat} {k : Nat}
    (split : c.boundSlots = before ++ k :: after) :
    before.Nodup ∧ (∀ j ∈ before, j < 4) ∧ k ∉ before ∧ k < 4 := by
  have inRange (j : Nat) (hj : j ∈ before ++ k :: after) : j < 4 :=
    Config.isBound_lt ((c.mem_boundSlots j).mp (split ▸ hj))
  obtain ⟨nodup, _, apart⟩ := List.nodup_append.mp (split ▸ c.boundSlots_nodup)
  exact ⟨nodup, fun j hj => inRange j (by simp [hj]), fun hk => apart k hk k (by simp) rfl, inRange k (by simp)⟩

theorem issueAll_boundSlots_quiet {p : Nat → Prim} {rest : List Bool} {s : State}
    (quiet : s.env.transport = List.replicate s.cfg.boundSlots.length false ++ rest) :
    issueAll p s.cfg.boundSlots s = .done () (allIssued p rest s) := by
  have inRange (k : Nat) (hk : k ∈ s.cfg.boundSlots) : k < 4 := Config.isBound_lt ((s.cfg.mem_boundSlots k).mp hk)
  rw [issueAll_quiet p _ s rest s.cfg.boundSlots_nodup inRange quiet]
  simp only [Config.mem_boundSlots]
  rfl

theorem issueAll_boundSlots_stops {p : Nat → Prim} {before after : List Nat} {k : Nat} {rest : List Bool} {s : State}
    (split : s.cfg.boundSlots = before ++ k :: after)
    (fails : s.env.transport = List.replicate before.length false ++ true :: rest) :
    issueAll p s.cfg.boundSlots s = .error (transportError k (p k)) (stoppedAt p before k rest s) := by
  obtain ⟨nodup, inRange, hk, hk4⟩ := boundSlots_split split
  rw [split, issueAll_append, issueAll_quiet p before s _ nodup inRange fails, Run.andThen_done, issueAll, issue,
    drawTransport_fails rfl]
  simp only [Run.andThen_error, afterPrim, stoppedAt, Nat.add_assoc, PerSlot.get_tabulate _ hk4, if_neg hk]
  congr 2
  refine PerSlot.ext_get fun j hj => ?_
  simp only [PerSlot.get_set _ _ hk4 hj, PerSlot.get_tabulate _ hj]
  by_cases same : j = k
  · simp [same, hk]
  · simp [same]

/-! ### Masked writes (R164) -/

/-- The masked write commands: each is its primitive's (R165, R166, R168, R169). -/
theorem exec_instr (op : MaskOp) (m : VMask) (s : State) : exec (op.instr m) s = .next (maskedWrite op m s) := by
  cases op <;> rfl

theorem settle_gateOwner (op : MaskOp) (s : State) (o : Owner) :
    op.settle { s with gateOwner := o } = { op.settle s with gateOwner := o } := by
  cases op <;> rfl

/-- A completed masked write changes `BUS_UNKNOWN` at most, apart from what its primitives changed. -/
theorem settle_eq (op : MaskOp) (s : State) : op.settle s = { s with busUnknown := (op.settle s).busUnknown } := by
  cases op <;> rfl

/-- A masked write none of whose primitives fails. -/
theorem maskedWrite_completes (op : MaskOp) {s : State} {m : VMask} {L : PerSlot LMask} {rest : List Bool}
    (ready : s.mode = .ready) (free : s.gateOwner = .free) (translates : fanOut s.cfg m = .ok L)
    (quiet : s.env.transport = List.replicate s.cfg.boundSlots.length false ++ rest) :
    maskedWrite op m s = answeredWith [] (op.settle (allIssued (fun k => op.prim (L.get k)) rest s)) := by
  have freeAfter : (op.settle (allIssued (fun k => op.prim (L.get k)) rest s)).gateOwner = .free := by
    rw [settle_eq]
    exact free
  rw [maskedWrite_eq_gateCommand]
  refine gateCommand_done (a := ()) ready free freeAfter ?_
  rw [← settle_gateOwner]
  exact vecWrite_quiet op m s.cfg.boundSlots { s with gateOwner := .host } L rest translates (List.Perm.refl _) quiet

/-- A masked write whose mask does not translate raises with nothing issued. -/
theorem maskedWrite_untranslated (op : MaskOp) {s : State} {m : VMask} {e : Raise} (ready : s.mode = .ready)
    (free : s.gateOwner = .free) (fails : fanOut s.cfg m = .error e) :
    maskedWrite op m s = raiseHost e { s with gateOwner := .host } := by
  rw [maskedWrite_eq_gateCommand]
  exact gateCommand_error ready free (by simp only [vecWrite, fails])

/-- A masked write whose first failing primitive is slot `k`'s. -/
theorem maskedWrite_stops (op : MaskOp) {s : State} {m : VMask} {L : PerSlot LMask} {before after : List Nat} {k : Nat}
    {rest : List Bool} (ready : s.mode = .ready) (free : s.gateOwner = .free) (idle : s.phase = .idle)
    (translates : fanOut s.cfg m = .ok L) (split : s.cfg.boundSlots = before ++ k :: after)
    (fails : s.env.transport = List.replicate before.length false ++ true :: rest) :
    maskedWrite op m s =
      failedWith .transportError 0#16 (BitVec.ofNat 8 k) (op.prim (L.get k)).code
        { stoppedAt (fun j => op.prim (L.get j)) before k rest s with busUnknown := true } := by
  rw [maskedWrite_eq_gateCommand]
  refine gateCommand_transportError (t := stoppedAt (fun j => op.prim (L.get j)) before k rest s) ready free free
    idle ?_
  have stopped := issueAll_boundSlots_stops (p := fun j => op.prim (L.get j)) (s := { s with gateOwner := .host })
    split fails
  simp only [vecWrite, translates, stopped, Run.andThen_error]
  rfl

/-- Settles O21: a completed masked write with `set_output`. -/
theorem driveCompletes : Obligations.DriveCompletes := by
  intro s m L rest ready free translates quiet
  exact (exec_instr .output m s).trans (congrArg _ (maskedWrite_completes .output ready free translates quiet))

/-- Settles O22: a completed masked write with `set_tristate`, which clears `BUS_UNKNOWN`. -/
theorem triStateCompletes : Obligations.TriStateCompletes := by
  intro s m L rest ready free translates quiet
  exact (exec_instr .tristate m s).trans (congrArg _ (maskedWrite_completes .tristate ready free translates quiet))

/-- Settles O23: completed masked writes with the assignment primitives. -/
theorem assignmentsComplete : Obligations.AssignmentsComplete := by
  intro s m L rest ready free translates quiet used
  exact ⟨
    (exec_instr .groundPins m s).trans (congrArg _ (maskedWrite_completes .groundPins ready free translates quiet)),
    (exec_instr .supplyPins m s).trans (congrArg _ (maskedWrite_completes .supplyPins ready free translates quiet))⟩

/-- Settles O24: the translation error is raised in the hold, from which `Idle` and a free gate come back. -/
theorem maskedWriteTranslationError : Obligations.MaskedWriteTranslationError := by
  intro op s m e ready free idle fails
  obtain ⟨known, noPrim⟩ := fault_of_fanOut fails
  rw [exec_instr, maskedWrite_untranslated op ready free fails, raiseHost_held free idle, noPrim]
  simp only [known, decide_false, Bool.or_false]
  rfl

/-- Settles O25: the state a stopped masked write ends in, written out for each primitive. -/
theorem maskedWriteStopsAtFailure : Obligations.MaskedWriteStopsAtFailure := by
  intro op s m L before after k rest ready free idle translates split fails
  rw [exec_instr, maskedWrite_stops op ready free idle translates split fails]
  cases op <;> rfl

/-! ### A masked write twice (R172) -/

theorem MaskOp.prim_apply_apply (op : MaskOp) (m : LMask) (d : Port) :
    (op.prim m).apply ((op.prim m).apply d) = (op.prim m).apply d := by
  cases op <;> rfl

theorem get_portsWith (c : Config) (f : Nat → Port → Port) (ports : PerSlot Port) {k : Nat} (hk : k < 4) :
    (portsWith c f ports).get k = if c.isBound k then f k (ports.get k) else ports.get k :=
  PerSlot.get_tabulate _ hk

/-- Changing the ports twice by a change that a second time does nothing is changing them once. -/
theorem portsWith_portsWith {c : Config} {f : Nat → Port → Port} (idem : ∀ k d, f k (f k d) = f k d)
    (ports : PerSlot Port) : portsWith c f (portsWith c f ports) = portsWith c f ports := by
  refine PerSlot.ext_get fun k hk => ?_
  simp only [get_portsWith _ _ _ hk]
  split
  · exact idem k _
  · rfl

/-- `t` is what a completed masked write of the local masks `L` leaves of `s`, as far as a second one depends on it. -/
structure Wrote (op : MaskOp) (L : PerSlot LMask) (rest : List Bool) (s t : State) : Prop where
  cfg : t.cfg = s.cfg
  mode : t.mode = s.mode
  gate : t.gateOwner = s.gateOwner
  status : t.lastStatus = .ok
  ports : t.ports = portsWith s.cfg (fun k d => (op.prim (L.get k)).apply d) s.ports
  busUnknown : t.busUnknown = (op.settle s).busUnknown
  trace : t.trace = s.trace ++ s.cfg.boundSlots.map fun k => .dev k (op.prim (L.get k)) .ok
  left : t.env.transport = rest

theorem maskedWrite_wrote (op : MaskOp) {s : State} {m : VMask} {L : PerSlot LMask} {rest : List Bool}
    (ready : s.mode = .ready) (free : s.gateOwner = .free) (translates : fanOut s.cfg m = .ok L)
    (quiet : s.env.transport = List.replicate s.cfg.boundSlots.length false ++ rest) :
    Wrote op L rest s (maskedWrite op m s) := by
  rw [maskedWrite_completes op ready free translates quiet]
  cases op <;> exact ⟨rfl, rfl, rfl, rfl, rfl, rfl, rfl, rfl⟩

theorem settle_busUnknown_settle {op : MaskOp} {s t : State} (h : t.busUnknown = (op.settle s).busUnknown) :
    (op.settle t).busUnknown = t.busUnknown := by
  cases op with
  | tristate => exact h.symm
  | output => rfl
  | supplyPins => rfl
  | groundPins => rfl

theorem raiseHost_lastStatus (r : Raise) (s : State) : (raiseHost r s).lastStatus = r.status := by
  simp [raiseHost]

/-- A masked write that answers `OK` had a mask that translates. -/
theorem fanOut_ok_of_maskedWrite_ok {op : MaskOp} {m : VMask} {s : State} (ready : s.mode = .ready)
    (free : s.gateOwner = .free) (ok : (maskedWrite op m s).lastStatus = .ok) : ∃ L, fanOut s.cfg m = .ok L := by
  cases h : fanOut s.cfg m with
  | ok L => exact ⟨L, rfl⟩
  | error e =>
    rw [maskedWrite_untranslated op ready free h, raiseHost_lastStatus] at ok
    exact absurd ok (status_ne_ok_of_fanOut h)

/-- Settles O31: the second write finds the first's masks in the ports. -/
theorem maskedWriteIdempotent : Obligations.MaskedWriteIdempotent := by
  intro op s t u m rest ready free quiet first ok second
  rw [exec_instr] at first second
  cases first
  cases second
  obtain ⟨L, translates⟩ := fanOut_ok_of_maskedWrite_ok ready free ok
  rw [List.replicate_add, List.append_assoc] at quiet
  have once := maskedWrite_wrote op ready free translates quiet
  have twice := maskedWrite_wrote op (L := L) (rest := rest) (once.mode.trans ready) (once.gate.trans free)
    (once.cfg.symm ▸ translates) (once.cfg.symm ▸ once.left)
  refine ⟨twice.status, ?_, twice.busUnknown.trans (settle_busUnknown_settle once.busUnknown),
    _, once.trace, once.cfg ▸ twice.trace, List.length_map _⟩
  rw [twice.ports, once.cfg, once.ports, portsWith_portsWith fun k => op.prim_apply_apply (L.get k)]

/-! ### Supply commands (R170, R171) -/

theorem exec_setSupplyVoltage (level : Word) (s : State) :
    exec (.setSupplyVoltage level) s = .next (supplyWrite (.setSupplyVoltage level.toInt) s) := rfl

theorem exec_enableSupply (on : Bool) (s : State) :
    exec (.enableSupply on) s = .next (supplyWrite (.enableSupply on) s) := rfl

theorem supplyWrite_completes {p : Prim} {s : State} {rest : List Bool} (ready : s.mode = .ready)
    (free : s.gateOwner = .free)
    (quiet : s.env.transport = List.replicate s.cfg.boundSlots.length false ++ rest) :
    supplyWrite p s = answeredWith [] (allIssued (fun _ => p) rest s) := by
  rw [supplyWrite_eq_gateCommand]
  exact gateCommand_done (t := allIssued (fun _ => p) rest s) ready free free
    (issueAll_boundSlots_quiet (s := { s with gateOwner := .host }) quiet)

theorem supplyWrite_stops {p : Prim} {s : State} {before after : List Nat} {k : Nat} {rest : List Bool}
    (ready : s.mode = .ready) (free : s.gateOwner = .free) (idle : s.phase = .idle)
    (split : s.cfg.boundSlots = before ++ k :: after)
    (fails : s.env.transport = List.replicate before.length false ++ true :: rest) :
    supplyWrite p s =
      failedWith .transportError 0#16 (BitVec.ofNat 8 k) p.code
        { stoppedAt (fun _ => p) before k rest s with busUnknown := true } := by
  rw [supplyWrite_eq_gateCommand]
  exact gateCommand_transportError (t := stoppedAt (fun _ => p) before k rest s) ready free free idle
    (issueAll_boundSlots_stops (s := { s with gateOwner := .host }) split fails)

/-- Settles O29: completed supply commands, the level read as two's complement. -/
theorem supplyCommandsComplete : Obligations.SupplyCommandsComplete := by
  intro s level on rest ready free quiet used
  rw [exec_setSupplyVoltage, exec_enableSupply, supplyWrite_completes ready free quiet,
    supplyWrite_completes ready free quiet]
  exact ⟨rfl, rfl⟩

/-- Settles O30: the state a stopped supply command ends in, written out for each primitive. -/
theorem supplyStopsAtFailure : Obligations.SupplyStopsAtFailure := by
  intro s level on before after k rest ready free idle split fails failedAt
  rw [exec_setSupplyVoltage, exec_enableSupply, supplyWrite_stops ready free idle split fails,
    supplyWrite_stops ready free idle split fails]
  exact ⟨rfl, rfl⟩

/-! ### READ (R167) -/

/-- The events of one `read_input` per slot of the list, the environment answering `f k` for slot `k` (R41, R72). -/
def readEvents (f : Nat → InputSample) (ports : PerSlot Port) (ks : List Nat) : List Event :=
  ks.map fun k => .dev k .readInput (.levels ((ports.get k).input (f k)))

/-- The state after each bound slot's `read_input` returned; `rest` and `restI` are the environment's answers left. -/
def allRead (f : Nat → InputSample) (rest : List Bool) (restI : List InputSample) (s : State) : State :=
  { s with trace := s.trace ++ readEvents f s.ports s.cfg.boundSlots,
           env := { s.env with transport := rest, inputs := restI,
                               draws := s.env.draws + 2 * s.cfg.boundSlots.length } }

/-- The state after the `read_input`s of the slots `before` returned and slot `k`'s raised. -/
def readStoppedAt (f : Nat → InputSample) (before : List Nat) (k : Nat) (rest : List Bool) (restI : List InputSample)
    (s : State) : State :=
  { s with trace := s.trace ++ readEvents f s.ports before ++ [.dev k .readInput .transportError],
           env := { s.env with transport := rest, inputs := restI, draws := s.env.draws + (2 * before.length + 1) } }

/-- A vector read whose first failing `read_input` is slot `k`'s. -/
theorem vecRead_fails (f : Nat → InputSample) {s : State} {before after : List Nat} {k : Nat} {rest : List Bool}
    {restI : List InputSample} (split : s.cfg.boundSlots = before ++ k :: after)
    (fails : s.env.transport = List.replicate before.length false ++ true :: rest)
    (inputs : s.env.inputs = before.map f ++ restI) :
    vecRead s = .error (transportError k .readInput) (readStoppedAt f before k rest restI s) := by
  obtain ⟨nodup, inRange, _, _⟩ := boundSlots_split split
  rw [vecRead, split, readAll_append, readAll_quiet f before _ s _ restI nodup inRange fails inputs, Run.andThen_done,
    readAll, issueRead, drawTransport_fails rfl]
  simp only [Run.andThen_error, afterPrim, PerSlot.set_get_self, Nat.add_assoc]
  rfl

theorem exec_read_completes (f : Nat → InputSample) {s : State} {rest : List Bool} {restI : List InputSample}
    (ready : s.mode = .ready) (free : s.gateOwner = .free)
    (quiet : s.env.transport = List.replicate s.cfg.boundSlots.length false ++ rest)
    (inputs : s.env.inputs = s.cfg.boundSlots.map f ++ restI) :
    exec .read s = .next (answeredWith (vmaskBytes s.cfg.nslots (aggregate s.cfg (returned s.ports f)))
      (allRead f rest restI s)) := by
  rw [exec_read_eq_gateCommand, gateCommand_done (t := allRead f rest restI s) ready free free
    (vecRead_quiet f { s with gateOwner := .host } rest restI quiet inputs)]
  rfl

theorem exec_read_stops (f : Nat → InputSample) {s : State} {before after : List Nat} {k : Nat} {rest : List Bool}
    {restI : List InputSample} (ready : s.mode = .ready) (free : s.gateOwner = .free) (idle : s.phase = .idle)
    (split : s.cfg.boundSlots = before ++ k :: after)
    (fails : s.env.transport = List.replicate before.length false ++ true :: rest)
    (inputs : s.env.inputs = before.map f ++ restI) :
    exec .read s = .next (failedWith .transportError 0#16 (BitVec.ofNat 8 k) 3#8
      { readStoppedAt f before k rest restI s with busUnknown := true }) := by
  rw [exec_read_eq_gateCommand, gateCommand_transportError (t := readStoppedAt f before k rest restI s) ready free free
    idle (vecRead_fails f (s := { s with gateOwner := .host }) split fails inputs)]
  rfl

/-- Settles O26: a bit of the answer is a bit of what its pin's device returned. -/
theorem readCompletes : Obligations.ReadCompletes := by
  intro s f rest restI ready free hn quiet inputs
  refine ⟨_, exec_read_completes f ready free quiet inputs, length_vmaskBytes _ _, fun k hk => ?_⟩
  rw [maskBit_vmaskBytes _ hk, getLsbD_aggregate _ hn hk]
  have device (t : Nat) (bound : s.cfg.isBound t = true) :
      (returned s.ports f).get t = (s.ports.get t).input (f t) := PerSlot.get_tabulate _ (Config.isBound_lt bound)
  constructor
  · rintro ⟨t, l, mapped, bound, set⟩
    exact ⟨t, l, mapped, bound, device t bound ▸ set⟩
  · rintro ⟨t, l, mapped, bound, set⟩
    exact ⟨t, l, mapped, bound, (device t bound).symm ▸ set⟩

/-- Settles O27: the state a stopped `READ` ends in, written out. -/
theorem readStopsAtFailure : Obligations.ReadStopsAtFailure :=
  fun _ f _ _ _ _ _ ready free idle split fails inputs => exec_read_stops f ready free idle split fails inputs

end Sys2Proof.Machine

/-! ## The bus cycle

A `BUS_CYCLE` is one transaction under the gate (R200). Its precheck comes first; after it no mask fails to translate
(R202), so a transaction ends in its record or at a primitive's `TransportError` (R209). -/

namespace Sys2Proof.Machine

/-! ### The precheck (R202) -/

/-- The first unusable pin's fault is the error of a list. -/
theorem pinFault_of_firstUnusable {c : Config} {ps : List VPin} {r : Raise} (h : firstUnusable c ps = some r) :
    ∃ p ∈ ps, pinFault c p = some r := by
  induction ps with
  | nil => simp [firstUnusable] at h
  | cons p ps ih =>
    rw [firstUnusable_cons, Option.or_eq_some_iff] at h
    rcases h with head | ⟨_, tail⟩
    · exact ⟨p, by simp, head⟩
    · obtain ⟨q, hq, fault⟩ := ih tail
      exact ⟨q, by simp [hq], fault⟩

/-- The RoleMap check issues no primitive, so its error is no `TransportError` (R323). -/
theorem status_ne_transportError_of_checkRoleMap {c : Config} {r : Raise} (h : checkRoleMap c = some r) :
    r.status ≠ .transportError := by
  unfold checkRoleMap at h
  split at h
  · cases h
    nofun
  · split at h
    · cases h
      nofun
    · obtain ⟨p, _, fault⟩ := pinFault_of_firstUnusable h
      rcases pinFault_eq_some.mp fault with ⟨_, rfl⟩ | ⟨_, _, _, _, rfl⟩ <;> nofun

theorem rmStatus_ne_transportError {s : State} (latched : roleCheckLatched s = true) :
    s.rmStatus ≠ .transportError := by
  unfold roleCheckLatched at latched
  split at latched
  · obtain ⟨ok, _⟩ := of_decide_eq_true latched
    rw [ok]
    nofun
  · rename_i r checked
    obtain ⟨status, _⟩ := of_decide_eq_true latched
    rw [status]
    exact status_ne_transportError_of_checkRoleMap checked

theorem precheck_ok {s : State} (ok : s.rmStatus = .ok) : precheck s = .done () (setPhase .floating s) := by
  simp only [precheck, ok]

theorem precheck_invalid {s : State} (invalid : s.rmStatus ≠ .ok) :
    precheck s = .error { status := s.rmStatus, pin := s.rmErrPin, slot := s.rmErrSlot, prim := noneByte } s := by
  unfold precheck
  split
  · exact absurd ‹_› invalid
  · rfl

theorem exec_busCycle_eq_gateCommand (s : State) :
    exec .busCycle s = .next (gateCommand transaction (fun _ t => recordBytes t) s) := rfl

/-- Settles O34: the precheck raises before the phase changes, so the raise finds `Idle`. -/
theorem busCyclePrecheckFails : Obligations.BusCyclePrecheckFails := by
  intro s ready free idle latched invalid
  have known := rmStatus_ne_transportError latched
  have raised : transaction { s with gateOwner := .host } =
      .error { status := s.rmStatus, pin := s.rmErrPin, slot := s.rmErrSlot, prim := noneByte }
        { s with gateOwner := .host } := by
    rw [transaction, precheck_invalid (s := { s with gateOwner := .host }) invalid, Run.andThen_error]
  rw [exec_busCycle_eq_gateCommand, gateCommand_error ready free raised, raiseHost_held free idle]
  simp only [known, decide_false, Bool.or_false]
  rfl

/-! ### The masks translate (R202) -/

/-- The mask of a set of usable pins translates. -/
theorem fanOut_pinMask_of_usable {c : Config} {S : VPin → Bool} (usable : ∀ p, S p = true → pinFault c p = none) :
    ∃ L, fanOut c (pinMask c S) = .ok L := by
  have bits (k : Nat) (_ : k < c.numPins) (set : (pinMask c S).getLsbD k = true) : pinFault c (pinOfBit k) = none := by
    simp only [getLsbD_pinMask, Bool.and_eq_true] at set
    exact usable _ set.2
  obtain ⟨L, translates, _⟩ := fanOut_of_usable bits
  exact ⟨L, translates⟩

theorem pinFault_of_onBoundSlot {c : Config} {p : VPin} (h : onBoundSlot c p = true) : pinFault c p = none :=
  pinFault_eq_none.mpr (onBoundSlot_iff.mp h)

theorem mem_rolePins {c : Config} {p : VPin} :
    p ∈ rolePins c ↔ p ∈ c.roleMap.addressBits ∨ p ∈ c.roleMap.dataBits ∨ p = c.roleMap.rwPin ∨
      p = c.roleMap.clockPin ∨ ∃ f ∈ c.roleMap.alwaysDriven, f.pin = p := by
  simp [rolePins]

/-- A pin that carries a data bit is a data pin. -/
theorem mem_of_dataBitSet {v : Byte} {p : VPin} {ds : List VPin} {i : Nat} (h : dataBitSet v p ds i = true) :
    p ∈ ds := by
  obtain ⟨j, hj, _⟩ := dataBitSet_iff.mp h
  exact List.mem_of_getElem? hj

/-- Every pin the sequencer drives is a role pin. -/
theorem fanOut_driveMask {c : Config} (usable : ∀ p ∈ rolePins c, pinFault c p = none) (clk : Bool)
    (v : Option Byte) : ∃ L, fanOut c (driveMask c clk v) = .ok L := by
  refine fanOut_pinMask_of_usable fun p driven => usable p (mem_rolePins.mpr ?_)
  simp only [Bool.or_eq_true, Bool.and_eq_true, beq_iff_eq, List.any_eq_true] at driven
  rcases driven with (⟨_, clock⟩ | ⟨f, hf, pin, _⟩) | data
  · exact .inr (.inr (.inr (.inl clock)))
  · exact .inr (.inr (.inr (.inr ⟨f, hf, pin⟩)))
  · cases v with
    | none => exact absurd data nofun
    | some b => exact .inr (.inl (mem_of_dataBitSet data))

/-- A pin the sequencer tri-states is on a bound slot. -/
theorem fanOut_floatMask (c : Config) : ∃ L, fanOut c (floatMask c) = .ok L := by
  refine fanOut_pinMask_of_usable fun p floating => ?_
  obtain ⟨bound, _⟩ := Bool.and_eq_true_iff.mp floating
  exact pinFault_of_onBoundSlot bound

theorem fanOut_readTriMask (c : Config) : ∃ L, fanOut c (readTriMask c) = .ok L := by
  refine fanOut_pinMask_of_usable fun p floating => ?_
  obtain ⟨⟨bound, _⟩, _⟩ : (onBoundSlot c p = true ∧ _) ∧ _ := by simpa only [Bool.and_eq_true] using floating
  exact pinFault_of_onBoundSlot bound

/-- Settles O15: the tri-state masks hold pins of bound slots, the drive masks role pins. -/
theorem sequencerMasksTranslate : Obligations.SequencerMasksTranslate := by
  intro c passed
  obtain ⟨_, _, _, usable⟩ := checkRoleMap_eq_none.mp passed
  exact ⟨fanOut_floatMask c, fanOut_readTriMask c, fanOut_driveMask usable⟩

end Sys2Proof.Machine

/-! ## A transaction under way

What a transaction has done so far is said relative to the state it began in: the events it appended, the phase it is
in, and its one memory call (R200 to R209). Each action either carries this on or aborts. -/

namespace Sys2Proof.Machine

/-! ### The events of a stretch of the trace -/

/-- No primitive of these events raised `TransportError`. -/
def NoFailure (evs : List Event) : Prop := ∀ j q, Event.dev j q .transportError ∉ evs

theorem NoFailure.nil : NoFailure [] := by simp [NoFailure]

theorem NoFailure.append {es fs : List Event} (he : NoFailure es) (hf : NoFailure fs) : NoFailure (es ++ fs) := by
  simp only [NoFailure, List.mem_append, not_or] at *
  exact fun j q => ⟨he j q, hf j q⟩

theorem memCalls_append (es fs : List Event) : memCalls (es ++ fs) = memCalls es ++ memCalls fs := by
  induction es with
  | nil => rfl
  | cons e es ih => cases e <;> simp [memCalls, ih]

/-- Every event is a primitive's. -/
def DevicesOnly (evs : List Event) : Prop := ∀ e ∈ evs, ∃ k p r, e = .dev k p r

/-- The events of primitives hold no phase event, no record and no memory call. -/
theorem DevicesOnly.counts {evs : List Event} (h : DevicesOnly evs) :
    phaseCount evs = 0 ∧ recordCount evs = 0 ∧ memCalls evs = [] := by
  induction evs with
  | nil => exact ⟨rfl, rfl, rfl⟩
  | cons e es ih =>
    obtain ⟨⟨k, p, r, rfl⟩, rest⟩ := List.forall_mem_cons.mp h
    exact ih rest

theorem DevicesOnly.append {es fs : List Event} (he : DevicesOnly es) (hf : DevicesOnly fs) :
    DevicesOnly (es ++ fs) :=
  fun e h => (List.mem_append.mp h).elim (he e) (hf e)

/-! ### Primitives of the bus -/

/-- The ground and supply settings of a device are as before. -/
structure SameSupply (d d' : Port) : Prop where
  gnd : d'.gnd = d.gnd
  sup : d'.sup = d.sup
  vlevel : d'.vlevel = d.vlevel
  supEn : d'.supEn = d.supEn

theorem SameSupply.refl (d : Port) : SameSupply d d := ⟨rfl, rfl, rfl, rfl⟩

theorem SameSupply.trans {d d' d'' : Port} (h : SameSupply d d') (h' : SameSupply d' d'') : SameSupply d d'' :=
  ⟨h'.gnd.trans h.gnd, h'.sup.trans h.sup, h'.vlevel.trans h.vlevel, h'.supEn.trans h.supEn⟩

/-- The ground and supply settings of every device are as before. -/
def SuppliesKept (s t : State) : Prop := ∀ k, k < 4 → SameSupply (s.ports.get k) (t.ports.get k)

theorem SuppliesKept.trans {s t u : State} (h : SuppliesKept s t) (h' : SuppliesKept t u) : SuppliesKept s u :=
  fun k hk => (h k hk).trans (h' k hk)

theorem SuppliesKept.refl (s : State) : SuppliesKept s s := fun _ _ => SameSupply.refl _

theorem SuppliesKept.conj {s t : State} (h : SuppliesKept s t) (k : Nat) (hk : k < 4) :
    (t.ports.get k).gnd = (s.ports.get k).gnd ∧ (t.ports.get k).sup = (s.ports.get k).sup ∧
      (t.ports.get k).vlevel = (s.ports.get k).vlevel ∧ (t.ports.get k).supEn = (s.ports.get k).supEn :=
  have ⟨gnd, sup, vlevel, supEn⟩ := h k hk
  ⟨gnd, sup, vlevel, supEn⟩

/-- A primitive that concerns the pins' levels only, whether it completes or raises. -/
def Prim.LeavesSupply (p : Prim) : Prop := ∀ d, SameSupply d (p.apply d) ∧ SameSupply d (p.spoil d)

theorem leavesSupply_setOutput (m : LMask) : (Prim.setOutput m).LeavesSupply :=
  fun _ => ⟨⟨rfl, rfl, rfl, rfl⟩, ⟨rfl, rfl, rfl, rfl⟩⟩

theorem leavesSupply_setTristate (m : LMask) : (Prim.setTristate m).LeavesSupply :=
  fun _ => ⟨⟨rfl, rfl, rfl, rfl⟩, ⟨rfl, rfl, rfl, rfl⟩⟩

/-- The state `t` comes from `s` by the primitives of these events, which leave the supply settings. -/
structure OnBus (s t : State) (evs : List Event) : Prop where
  frame : t = { s with busUnknown := t.busUnknown, ports := t.ports, trace := t.trace, env := t.env }
  trace : t.trace = s.trace ++ evs
  devices : DevicesOnly evs
  supply : SuppliesKept s t

theorem OnBus.refl (s : State) : OnBus s s [] := ⟨rfl, by simp, by simp [DevicesOnly], SuppliesKept.refl _⟩

theorem OnBus.trans {s t u : State} {es fs : List Event} (h : OnBus s t es) (h' : OnBus t u fs) :
    OnBus s u (es ++ fs) :=
  ⟨by rw [h'.frame, h.frame], by rw [h'.trace, h.trace, List.append_assoc], h.devices.append h'.devices,
    h.supply.trans h'.supply⟩

theorem OnBus.cfg {s t : State} {evs : List Event} (h : OnBus s t evs) : t.cfg = s.cfg := by rw [h.frame]

/-- One primitive that leaves its device's supply settings. -/
theorem afterPrim_onBus {s : State} {k : Nat} {d : Port} (kept : SameSupply (s.ports.get k) d) (p : Prim)
    (r : PrimResult) (e : Env) : OnBus s (afterPrim k p r d e s) [.dev k p r] := by
  refine ⟨rfl, rfl, by simp [DevicesOnly], fun j hj => ?_⟩
  by_cases same : j = k
  · subst same
    rwa [afterPrim_ports, PerSlot.get_set_same _ _ hj]
  · rw [afterPrim_ports, PerSlot.get_set_other _ _ hj same]
    exact SameSupply.refl _

/-- The operation completes with no primitive failed, or stops at the one that failed, on a bound slot (R73, R164). -/
def Run.OnBus {α : Type} (s : State) : Run α → Prop
  | .done _ t => ∃ evs, Machine.OnBus s t evs ∧ NoFailure evs
  | .error r t => ∃ before k p, Machine.OnBus s t (before ++ [.dev k p .transportError]) ∧ NoFailure before ∧
      s.cfg.isBound k = true ∧ r = transportError k p

theorem Run.OnBus.andThen {α β : Type} {s : State} {r : Run α} {f : α → State → Run β} (h : r.OnBus s)
    (hf : ∀ a t, t.cfg = s.cfg → (f a t).OnBus t) : (r.andThen f).OnBus s := by
  cases r with
  | error e t => exact h
  | done a t =>
    obtain ⟨es, first, quiet⟩ := h
    have next := hf a t first.cfg
    rw [Run.andThen_done]
    cases hr : f a t with
    | done b u =>
      rw [hr] at next
      obtain ⟨fs, second, quiet'⟩ := next
      exact ⟨es ++ fs, first.trans second, quiet.append quiet'⟩
    | error e u =>
      rw [hr] at next
      obtain ⟨before, k, p, second, quiet', bound, raised⟩ := next
      refine ⟨es ++ before, k, p, ?_, quiet.append quiet', first.cfg ▸ bound, raised⟩
      rw [List.append_assoc]
      exact first.trans second

theorem issue_onBus {s : State} {k : Nat} {p : Prim} (bound : s.cfg.isBound k = true) (leaves : p.LeavesSupply) :
    (issue k p s).OnBus s := by
  rcases issue_cases k p s with ⟨e, _, h⟩ | ⟨e, _, h⟩ <;> rw [h]
  · exact ⟨_, afterPrim_onBus (leaves _).1 p .ok e, by simp [NoFailure]⟩
  · exact ⟨[], k, p, afterPrim_onBus (leaves _).2 p .transportError e, NoFailure.nil, bound, rfl⟩

theorem issueRead_onBus {s : State} {k : Nat} (bound : s.cfg.isBound k = true) : (issueRead k s).OnBus s := by
  rcases issueRead_cases k s with ⟨_, i, e, _, _, h⟩ | ⟨e, _, h⟩ <;> rw [h]
  · exact ⟨_, afterPrim_onBus (SameSupply.refl _) .readInput _ e, by simp [NoFailure]⟩
  · exact ⟨[], k, .readInput, afterPrim_onBus (SameSupply.refl _) .readInput .transportError e, NoFailure.nil, bound,
      rfl⟩

theorem issueAll_onBus {p : Nat → Prim} (leaves : ∀ k, (p k).LeavesSupply) {ks : List Nat} {s : State}
    (bound : ∀ k ∈ ks, s.cfg.isBound k = true) : (issueAll p ks s).OnBus s := by
  induction ks generalizing s with
  | nil => exact ⟨[], OnBus.refl s, NoFailure.nil⟩
  | cons k ks ih =>
    exact (issue_onBus (bound k (by simp)) (leaves k)).andThen fun _ t cfg =>
      ih fun j hj => cfg ▸ bound j (by simp [hj])

theorem readAll_onBus {ks : List Nat} (I : PerSlot LMask) {s : State} (bound : ∀ k ∈ ks, s.cfg.isBound k = true) :
    (readAll ks I s).OnBus s := by
  induction ks generalizing s I with
  | nil => exact ⟨[], OnBus.refl s, NoFailure.nil⟩
  | cons k ks ih =>
    exact (issueRead_onBus (bound k (by simp))).andThen fun _ t cfg =>
      ih _ fun j hj => cfg ▸ bound j (by simp [hj])

theorem settle_onBus (op : MaskOp) (s : State) : OnBus s (op.settle s) [] := by
  cases op <;> exact ⟨rfl, (List.append_nil _).symm, by simp [DevicesOnly], SuppliesKept.refl _⟩

/-- A vector write whose mask translates. -/
theorem vecWrite_onBus {op : MaskOp} (leaves : ∀ m, (op.prim m).LeavesSupply) {m : VMask} {order : List Nat}
    {s : State} {L : PerSlot LMask} (translates : fanOut s.cfg m = .ok L)
    (bound : ∀ k ∈ order, s.cfg.isBound k = true) : (vecWrite op m order s).OnBus s := by
  simp only [vecWrite, translates]
  exact (issueAll_onBus (fun k => leaves (L.get k)) bound).andThen fun _ t _ => ⟨[], settle_onBus op t, NoFailure.nil⟩

theorem vecRead_onBus (s : State) : (vecRead s).OnBus s :=
  (readAll_onBus _ fun k hk => (s.cfg.mem_boundSlots k).mp hk).andThen fun _ t _ => ⟨[], OnBus.refl t, NoFailure.nil⟩

/-! ### Before the record -/

/-- The state `t` comes from `s` inside a transaction that has made no record yet: the events are counted in `SEQ`, and
`LAST_*` and `TXN_COUNT` are as before (R30, R208). -/
structure Unrecorded (s t : State) (evs : List Event) : Prop where
  frame : t = { s with
    phase := t.phase, curAddr := t.curAddr, curDir := t.curDir, curValue := t.curValue, seq := t.seq,
    busUnknown := t.busUnknown, ports := t.ports, mem := t.mem, trace := t.trace, env := t.env }
  trace : t.trace = s.trace ++ evs
  seq : t.seq = s.seq + BitVec.ofNat 32 (phaseCount evs)
  records : recordCount evs = 0
  supply : SuppliesKept s t

theorem Unrecorded.refl (s : State) : Unrecorded s s [] :=
  ⟨rfl, by simp, by simp [phaseCount], rfl, SuppliesKept.refl _⟩

theorem Unrecorded.trans {s t u : State} {es fs : List Event} (h : Unrecorded s t es) (h' : Unrecorded t u fs) :
    Unrecorded s u (es ++ fs) where
  frame := by rw [h'.frame, h.frame]
  trace := by rw [h'.trace, h.trace, List.append_assoc]
  seq := by rw [h'.seq, h.seq, phaseCount_append, BitVec.ofNat_add, BitVec.add_assoc]
  records := by rw [recordCount_append, h.records, h'.records]
  supply := h.supply.trans h'.supply

theorem Unrecorded.kept {s t : State} {evs : List Event} (h : Unrecorded s t evs) :
    t.gateOwner = s.gateOwner ∧ t.frStatus = s.frStatus ∧ t.responses = s.responses ∧ t.txnCount = s.txnCount ∧
      t.lastValid = s.lastValid ∧ t.lastAddr = s.lastAddr ∧ t.lastValue = s.lastValue ∧ t.lastDir = s.lastDir := by
  rw [h.frame]
  exact ⟨rfl, rfl, rfl, rfl, rfl, rfl, rfl, rfl⟩

theorem OnBus.unrecorded {s t : State} {evs : List Event} (h : OnBus s t evs) : Unrecorded s t evs := by
  obtain ⟨noPhase, noRecord, _⟩ := h.devices.counts
  refine ⟨by rw [h.frame], h.trace, ?_, noRecord, h.supply⟩
  rw [h.frame, noPhase]
  simp

/-- The event of a change of phase, none if the phase is the present one (R41, R201). -/
def phaseEvents (q : Phase) (s : State) : List Event :=
  if s.phase = q then [] else [.phase (s.seq + 1#32) s.phase q s.gateOwner]

theorem setPhase_unrecorded (q : Phase) (s : State) : Unrecorded s (setPhase q s) (phaseEvents q s) := by
  unfold phaseEvents
  split
  · rename_i same
    rw [setPhase_same q s same]
    exact Unrecorded.refl s
  · rename_i change
    rw [setPhase_change q s change]
    exact ⟨rfl, rfl, rfl, rfl, SuppliesKept.refl _⟩

theorem phaseEvents_plain (q : Phase) (s : State) : NoFailure (phaseEvents q s) ∧ memCalls (phaseEvents q s) = [] := by
  unfold phaseEvents
  split
  · exact ⟨NoFailure.nil, rfl⟩
  · exact ⟨by simp [NoFailure], rfl⟩

/-! ### The memory call -/

/-- The memory calls are the one of a transaction in direction `d`, at address `a` with byte `v`; it made `m'` of the
memory `m` (R206, R207). -/
def CallMade (d : Direction) (a : Word) (v : Byte) (m m' : Memory) (calls : List Event) : Prop :=
  match d with
  | .read => calls = [.memRead a.toNat v] ∧ m' = m ∧ v = m.read a.toNat
  | .write => calls = [.memWrite a.toNat v] ∧ m' = m.write a.toNat v

theorem CallMade.cases {d : Direction} {a : Word} {v : Byte} {m m' : Memory} {calls : List Event}
    (h : CallMade d a v m m' calls) :
    (d = .read ∧ calls = [.memRead a.toNat v] ∧ m' = m ∧ v = m.read a.toNat) ∨
    (d = .write ∧ calls = [.memWrite a.toNat v] ∧ m' = m.write a.toNat v) := by
  cases d with
  | read => exact .inl ⟨rfl, h⟩
  | write => exact .inr ⟨rfl, h⟩

/-- How far a transaction has come before its record. -/
inductive Progress where
  /-- The direction is not latched. -/
  | unsampled
  /-- The direction is latched, the memory not called. -/
  | latched (d : Direction)
  /-- The memory is called. -/
  | called (d : Direction)

/-- The latched registers, the memory and the memory calls are as the progress says. -/
def Progress.Holds (g : Progress) (s t : State) (evs : List Event) : Prop :=
  match g with
  | .unsampled => memCalls evs = [] ∧ t.mem = s.mem
  | .latched d => (memCalls evs = [] ∧ t.mem = s.mem) ∧ t.curDir = d
  | .called d => CallMade d t.curAddr t.curValue s.mem t.mem (memCalls evs) ∧ t.curDir = d

/-- Progress stays while the latched registers and the memory do. -/
theorem Progress.Holds.congr {g : Progress} {s t u : State} {es fs : List Event} (h : g.Holds s t es)
    (calls : memCalls fs = memCalls es) (mem : u.mem = t.mem) (addr : u.curAddr = t.curAddr)
    (value : u.curValue = t.curValue) (dir : u.curDir = t.curDir) : g.Holds s u fs := by
  cases g <;> simp only [Progress.Holds, calls, mem, addr, value, dir] <;> exact h

/-- Before the record there is at most one memory call, and it stays made (R209). -/
theorem Progress.Holds.atMostOneCall {g : Progress} {s t : State} {evs : List Event} (h : g.Holds s t evs) :
    (memCalls evs = [] ∧ t.mem = s.mem) ∨
    (memCalls evs = [.memRead t.curAddr.toNat t.curValue] ∧ t.mem = s.mem) ∨
    (memCalls evs = [.memWrite t.curAddr.toNat t.curValue] ∧ t.mem = s.mem.write t.curAddr.toNat t.curValue) := by
  match g, h with
  | .unsampled, h => exact .inl h
  | .latched _, ⟨h, _⟩ => exact .inl h
  | .called .read, ⟨⟨calls, mem, _⟩, _⟩ => exact .inr (.inl ⟨calls, mem⟩)
  | .called .write, ⟨⟨calls, mem⟩, _⟩ => exact .inr (.inr ⟨calls, mem⟩)

/-! ### Carrying on, aborting, completing -/

/-- The number of phase changes from `Idle` to this phase (R201). -/
def Phase.changes : Phase → Nat
  | .idle => 0
  | .floating => 1
  | .sampled => 2
  | .readDrive => 3
  | .writeCapture => 3
  | .settled => 4

/-- A transaction begun in `s` has come to `t`, in phase `p`, no primitive having failed. -/
structure Underway (s : State) (p : Phase) (g : Progress) (t : State) (evs : List Event) : Prop where
  unrecorded : Unrecorded s t evs
  phase : t.phase = p
  phases : phaseCount evs = p.changes
  quiet : NoFailure evs
  progress : g.Holds s t evs

/-- A transaction begun in `s` was aborted in `t` by the error `r` (R209). -/
structure Aborted (s : State) (r : Raise) (t : State) (evs : List Event) : Prop where
  unrecorded : Unrecorded s t evs
  progress : ∃ g : Progress, g.Holds s t evs
  /-- With a RoleMap that passed its check, a primitive failed, inside the transaction. -/
  cause : s.rmStatus = .ok → checkRoleMap s.cfg = none → t.phase ≠ .idle ∧
    ∃ before k p, evs = before ++ [.dev k p .transportError] ∧ NoFailure before ∧ s.cfg.isBound k = true ∧
      r = transportError k p

/-- A transaction begun in `s` ended in `t` with its record (R208). -/
structure Completed (s t : State) (evs : List Event) : Prop where
  frame : TxnFrame s t
  phase : t.phase = .idle
  trace : t.trace = s.trace ++ evs
  seq : t.seq = s.seq + 5#32
  txnCount : t.txnCount = s.txnCount + 1#32
  lastValid : t.lastValid = true
  records : recordCount evs = 1
  quiet : NoFailure evs
  supply : SuppliesKept s t
  call : CallMade t.lastDir t.lastAddr t.lastValue s.mem t.mem (memCalls evs)

/-- A part of a transaction begun in `s` completes with `Q`, or aborts. -/
def Run.Yields {α : Type} (s : State) (Q : State → List Event → Prop) : Run α → Prop
  | .done _ t => ∃ evs, Q t evs
  | .error r t => ∃ evs, Aborted s r t evs

theorem Run.Yields.andThen {α β : Type} {s : State} {Q R : State → List Event → Prop} {r : Run α}
    {f : α → State → Run β} (h : r.Yields s Q) (hf : ∀ a t evs, Q t evs → (f a t).Yields s R) :
    (r.andThen f).Yields s R := by
  cases r with
  | done a t =>
    obtain ⟨evs, hq⟩ := h
    exact hf a t evs hq
  | error e t => exact h

section Actions

variable {α : Type} {s t : State} {p : Phase} {g : Progress} {evs : List Event}

theorem Underway.cfg (h : Underway s p g t evs) : t.cfg = s.cfg := by rw [h.unrecorded.frame]

/-- Primitives on the bus carry a transaction on, or abort it at the one that failed. -/
theorem Underway.onBus (h : Underway s p g t evs) (busy : p ≠ .idle) {r : Run α} (hr : r.OnBus t) :
    r.Yields s (Underway s p g) := by
  have stays {u : State} {es : List Event} (bus : OnBus t u es) : g.Holds s u (evs ++ es) := by
    obtain ⟨_, _, noCall⟩ := bus.devices.counts
    refine h.progress.congr ?_ ?_ ?_ ?_ ?_
    · rw [memCalls_append, noCall, List.append_nil]
    all_goals rw [bus.frame]
  have samePhase {u : State} {es : List Event} (bus : OnBus t u es) : u.phase = p := by rw [bus.frame, h.phase]
  cases r with
  | done a u =>
    obtain ⟨es, bus, quiet⟩ := hr
    obtain ⟨noPhase, _, _⟩ := bus.devices.counts
    refine ⟨evs ++ es, h.unrecorded.trans bus.unrecorded, samePhase bus, ?_, h.quiet.append quiet, stays bus⟩
    rw [phaseCount_append, noPhase, h.phases, Nat.add_zero]
  | error e u =>
    obtain ⟨before, k, q, bus, quiet, bound, raised⟩ := hr
    refine ⟨_, h.unrecorded.trans bus.unrecorded, ⟨g, stays bus⟩, fun _ _ => ⟨samePhase bus ▸ busy, ?_⟩⟩
    exact ⟨evs ++ before, k, q, (List.append_assoc ..).symm, h.quiet.append quiet, h.cfg ▸ bound, raised⟩

/-- A vector write of the sequencer; its mask translates if the RoleMap check has passed (R202). -/
theorem Underway.vecWrite (h : Underway s p g t evs) (busy : p ≠ .idle) (op : MaskOp)
    (leaves : ∀ m, (op.prim m).LeavesSupply) {m : VMask} {order : List Nat}
    (bound : ∀ k ∈ order, t.cfg.isBound k = true)
    (translates : checkRoleMap t.cfg = none → ∃ L, fanOut t.cfg m = .ok L) :
    (Machine.vecWrite op m order t).Yields s (Underway s p g) := by
  cases fan : fanOut t.cfg m with
  | ok L => exact h.onBus busy (vecWrite_onBus leaves fan bound)
  | error e =>
    simp only [Machine.vecWrite, fan]
    refine ⟨evs, h.unrecorded, ⟨g, h.progress⟩, fun _ passed => ?_⟩
    obtain ⟨L, hL⟩ := translates (h.cfg.symm ▸ passed)
    cases hL.symm.trans fan

theorem Underway.floatBus (h : Underway s p g t evs) (busy : p ≠ .idle) :
    (Machine.floatBus t).Yields s (Underway s p g) :=
  h.vecWrite busy .tristate leavesSupply_setTristate (fun k hk => (t.cfg.mem_boundSlots k).mp hk) fun _ =>
    fanOut_floatMask t.cfg

theorem Underway.readEnable (h : Underway s p g t evs) (busy : p ≠ .idle) :
    (Machine.readEnable t).Yields s (Underway s p g) :=
  h.vecWrite busy .tristate leavesSupply_setTristate (fun k hk => (t.cfg.mem_boundSlots k).mp hk) fun _ =>
    fanOut_readTriMask t.cfg

theorem Underway.driveClock (h : Underway s p g t evs) (busy : p ≠ .idle) (clk : Bool) (v : Option Byte) :
    (Machine.driveClock clk v t).Yields s (Underway s p g) :=
  h.vecWrite busy .output leavesSupply_setOutput (fun k hk => (mem_clockLastSlots t.cfg k).mp hk) fun passed =>
    have ⟨_, _, _, usable⟩ := checkRoleMap_eq_none.mp passed
    fanOut_driveMask usable clk v

/-- A phase change to a phase one change further on. -/
theorem Underway.setPhase (h : Underway s p g t evs) {q : Phase} (next : q.changes = p.changes + 1) :
    Underway s q g (setPhase q t) (evs ++ phaseEvents q t) := by
  obtain ⟨quiet, noCall⟩ := phaseEvents_plain q t
  have change : t.phase ≠ q := by
    rintro rfl
    rw [h.phase] at next
    omega
  refine ⟨h.unrecorded.trans (setPhase_unrecorded q t), setPhase_phase q t, ?_, h.quiet.append quiet, ?_⟩
  · rw [phaseCount_append, h.phases, next, phaseEvents, if_neg change]
    rfl
  · exact h.progress.congr (by rw [memCalls_append, noCall, List.append_nil]) (setPhase_mem q t)
      (setPhase_curAddr q t) (setPhase_curValue q t) (setPhase_curDir q t)

/-- Latched registers may change as long as the progress does not rest on them. -/
theorem Underway.latch (h : Underway s p g t evs) (a : Word) (d : Direction) (v : Byte)
    (holds : g.Holds s { t with curAddr := a, curDir := d, curValue := v } evs) :
    Underway s p g { t with curAddr := a, curDir := d, curValue := v } evs := by
  obtain ⟨⟨frame, trace, seq, records, supply⟩, phase, phases, quiet, _⟩ := h
  exact ⟨⟨by rw [frame], trace, seq, records, supply⟩, phase, phases, quiet, holds⟩

/-- The sample latches address and direction (R204). -/
theorem Underway.sampleBus (h : Underway s p .unsampled t evs) (busy : p ≠ .idle) :
    (Machine.sampleBus t).Yields s (Underway s p .unsampled) :=
  (h.onBus busy (vecRead_onBus t)).andThen fun _ _ es hu => ⟨es, hu.latch _ _ _ hu.progress⟩

/-- The data sample latches the byte to store (R207). -/
theorem Underway.writeSample {d : Direction} (h : Underway s p (.latched d) t evs) (busy : p ≠ .idle) :
    (Machine.writeSample t).Yields s (Underway s p (.latched d)) :=
  (h.onBus busy (vecRead_onBus t)).andThen fun _ _ es hu => ⟨es, hu.latch _ _ _ hu.progress⟩

/-- A transaction begins with its precheck (R202). -/
theorem precheck_yields (idle : s.phase = .idle) : (precheck s).Yields s (Underway s .floating .unsampled) := by
  have start : Underway s .idle .unsampled s [] := ⟨Unrecorded.refl s, idle, rfl, NoFailure.nil, rfl, rfl⟩
  by_cases ok : s.rmStatus = .ok
  · rw [precheck_ok ok]
    exact ⟨_, start.setPhase rfl⟩
  · rw [precheck_invalid ok]
    exact ⟨[], start.unrecorded, ⟨_, start.progress⟩, fun passed => absurd passed ok⟩

/-- The fetch is the memory call of a read (R206). -/
theorem Underway.readFetch (h : Underway s p (.latched .read) t evs) :
    (Machine.readFetch t).Yields s (Underway s p (.called .read)) := by
  obtain ⟨unrecorded, phase, phases, quiet, ⟨noCall, mem⟩, dir⟩ := h
  have fetched : Unrecorded t
      { (memRead t.curAddr.toNat t).2 with curValue := t.mem.read t.curAddr.toNat }
      [.memRead t.curAddr.toNat (t.mem.read t.curAddr.toNat)] :=
    ⟨rfl, rfl, (BitVec.add_zero t.seq).symm, rfl, SuppliesKept.refl _⟩
  refine ⟨_, unrecorded.trans fetched, phase, ?_, quiet.append (by simp [NoFailure]), ⟨?_, mem, ?_⟩, dir⟩
  · rw [phaseCount_append, phases]
    rfl
  · rw [memCalls_append, noCall]
    rfl
  · rw [← mem]

/-- The store is the memory call of a write (R207). -/
theorem Underway.writeStore (h : Underway s p (.latched .write) t evs) :
    (Machine.writeStore t).Yields s (Underway s p (.called .write)) := by
  obtain ⟨unrecorded, phase, phases, quiet, ⟨noCall, mem⟩, dir⟩ := h
  have stored : Unrecorded t (memWrite t.curAddr.toNat t.curValue t) [.memWrite t.curAddr.toNat t.curValue] :=
    ⟨rfl, rfl, (BitVec.add_zero t.seq).symm, rfl, SuppliesKept.refl _⟩
  refine ⟨_, unrecorded.trans stored, phase, ?_, quiet.append (by simp [NoFailure]), ⟨?_, ?_⟩, dir⟩
  · rw [phaseCount_append, phases]
    rfl
  · rw [memCalls_append, noCall]
    rfl
  · rw [memWrite_mem, mem]
    rfl

/-- `ReadDrive` makes the read's memory call (R206). -/
theorem Underway.readDrive (h : Underway s p (.latched .read) t evs) (busy : p ≠ .idle) :
    (Machine.readDrive t).Yields s (Underway s p (.called .read)) :=
  (h.readEnable busy).andThen fun _ _ _ enabled =>
    enabled.readFetch.andThen fun _ _ _ fetched =>
      (fetched.driveClock busy _ _).andThen fun _ _ _ high => high.driveClock busy _ _

/-- `WriteCapture` makes the write's memory call (R207). -/
theorem Underway.writeCapture (h : Underway s p (.latched .write) t evs) (busy : p ≠ .idle) :
    (Machine.writeCapture t).Yields s (Underway s p (.called .write)) :=
  (h.driveClock busy _ _).andThen fun _ _ _ high =>
    (high.writeSample busy).andThen fun _ _ _ sampled =>
      sampled.writeStore.andThen fun _ _ _ stored => stored.driveClock busy _ _

/-- The record ends a transaction whose memory is called (R208). -/
theorem Underway.completes {d : Direction} (h : Underway s p (.called d) t evs) (last : p.changes = 3) :
    ∃ es, Completed s (Machine.setPhase .idle (settleRecord (Machine.setPhase .settled t))) es := by
  have settled := h.setPhase (q := .settled) (last ▸ rfl)
  generalize Machine.setPhase .settled t = u at settled
  generalize evs ++ phaseEvents .settled t = es at settled
  obtain ⟨⟨frame, trace, seq, records, supply⟩, phase, phases, quiet, call, rfl⟩ := settled
  have idle : (settleRecord u).phase ≠ .idle := by
    rw [settleRecord_phase, phase]
    nofun
  rw [setPhase_change .idle _ idle]
  refine ⟨es ++ [.record u.curAddr u.curValue u.curDir, .phase (u.seq + 1#32) u.phase .idle u.gateOwner], ?_, rfl, ?_,
    ?_, ?_, rfl, ?_, quiet.append (by simp [NoFailure]), supply, ?_⟩
  · rw [TxnFrame, frame]
    rfl
  · simp [trace]
  · simp [seq, phases, Phase.changes, BitVec.add_assoc]
  · rw [frame]
    rfl
  · rw [recordCount_append, records]
    rfl
  · rw [memCalls_append]
    simpa [memCalls] using call

/-- A transaction completes with its record, or is aborted (R200, R209). -/
theorem transaction_yields (idle : s.phase = .idle) : (transaction s).Yields s (Completed s) := by
  refine (precheck_yields idle).andThen fun _ _ _ floating => ?_
  refine (floating.floatBus nofun).andThen fun _ _ _ floated => ?_
  refine ((floated.setPhase (q := .sampled) rfl).sampleBus nofun).andThen fun _ v es sampled => ?_
  have latched (d : Direction) (dir : v.curDir = d) : Underway s .sampled (.latched d) v es :=
    ⟨sampled.unrecorded, sampled.phase, sampled.phases, sampled.quiet, sampled.progress, dir⟩
  unfold branchPhase
  cases dir : v.curDir with
  | read =>
    have driving := (latched .read dir).setPhase (q := .readDrive) rfl
    exact (driving.readDrive nofun).andThen fun _ _ _ done => done.completes rfl
  | write =>
    have capturing := (latched .write dir).setPhase (q := .writeCapture) rfl
    exact (capturing.writeCapture nofun).andThen fun _ _ _ done => done.completes rfl

end Actions

/-! ### BUS_CYCLE (R209) -/

/-- The raise of the host that holds the gate: the phase goes to `Idle` and the gate is free (R209, R285). -/
theorem raiseHost_owner {r : Raise} {t : State} (gate : t.gateOwner = .host) :
    raiseHost r t = failedWith r.status r.pin r.slot r.prim
      { setPhase .idle t with
        gateOwner := .free, busUnknown := t.busUnknown || decide (r.status = .transportError) } := by
  have owner : ({ recordError .host r t with lastStatus := r.status } : State).gateOwner = Agent.host.owner := gate
  rw [raiseHost, abandonTxn_owner _ _ owner]
  by_cases idle : t.phase = .idle
  · have recorded : ({ recordError .host r t with lastStatus := r.status } : State).phase = .idle := idle
    rw [setPhase_same .idle t idle, setPhase_same .idle _ recorded]
    rfl
  · have recorded : ({ recordError .host r t with lastStatus := r.status } : State).phase ≠ .idle := idle
    rw [setPhase_change .idle t idle, setPhase_change .idle _ recorded]
    rfl

/-- A `BUS_CYCLE` that takes the gate ends as its transaction does. -/
theorem busCycle_cases {s t : State} (ready : s.mode = .ready) (free : s.gateOwner = .free)
    (h : exec .busCycle s = .next t) :
    (∃ u, transaction { s with gateOwner := .host } = .done () u ∧
      t = complete (recordBytes u) (releaseGate .host u)) ∨
    (∃ r u, transaction { s with gateOwner := .host } = .error r u ∧ r.status ≠ .ok ∧ t = raiseHost r u) := by
  have run : t = withGate s fun s => (transaction s).andThen fun _ t => .done (recordBytes t) t := by
    rw [exec_busCycle_eq_gateCommand, gateCommand, whenReady_ready ready] at h
    cases h
    rfl
  have errors := (transaction_keepsPort { s with gateOwner := .host }).errors
  simp only [withGate, free] at run
  cases ended : transaction { s with gateOwner := .host } with
  | done a u => exact .inl ⟨u, rfl, by rw [run, ended]; rfl⟩
  | error r u => exact .inr ⟨r, u, rfl, errors r u ended, by rw [run, ended]; rfl⟩

/-- The host gives up the gate it holds. -/
theorem releaseGate_of_owner {t : State} (gate : t.gateOwner = .host) :
    releaseGate .host t = { t with gateOwner := .free } :=
  if_pos gate

/-- An abort's change to `Idle` makes no record and no memory call (R209). -/
theorem Aborted.toIdle {s u : State} {r : Raise} {evs : List Event} (h : Aborted s r u evs) :
    Unrecorded s (setPhase .idle u) (evs ++ phaseEvents .idle u) ∧
      ∃ g : Progress, g.Holds s (setPhase .idle u) (evs ++ phaseEvents .idle u) := by
  obtain ⟨unrecorded, ⟨g, progress⟩, _⟩ := h
  obtain ⟨_, noCall⟩ := phaseEvents_plain .idle u
  refine ⟨unrecorded.trans (setPhase_unrecorded .idle u), g, progress.congr ?_ (setPhase_mem _ u)
    (setPhase_curAddr _ u) (setPhase_curValue _ u) (setPhase_curDir _ u)⟩
  rw [memCalls_append, noCall, List.append_nil]

/-- Inside a transaction the change to `Idle` is one event, numbered as `SEQ` then is. -/
theorem phaseEvents_idle_of_busy {u : State} (busy : u.phase ≠ .idle) :
    phaseEvents .idle u = [.phase (setPhase .idle u).seq u.phase .idle u.gateOwner] := by
  rw [phaseEvents, if_neg busy, setPhase_change .idle u busy]

/-- Settles O35: a `BUS_CYCLE` ends as its transaction does; an abort appends the change to `Idle` to what the
transaction did. -/
theorem busCycleCompletesOrAborts : Obligations.BusCycleCompletesOrAborts := by
  intro s t ready free idle h
  have ends := transaction_yields (s := { s with gateOwner := .host }) idle
  rcases busCycle_cases ready free h with ⟨u, ended, rfl⟩ | ⟨r, u, ended, error, rfl⟩ <;> rw [ended] at ends
  · obtain ⟨evs, frame, phase, trace, seq, txnCount, valid, records, quiet, supply, call⟩ := ends
    rw [releaseGate_of_owner (by rw [frame])]
    exact ⟨phase, rfl, by rw [frame]; rfl, supply.conj, evs, trace,
      .inl ⟨rfl, txnCount, seq, records, valid, quiet, call.cases⟩⟩
  · obtain ⟨evs, aborted⟩ := ends
    obtain ⟨unrecorded, g, progress⟩ := aborted.toIdle
    obtain ⟨_, frStatus, responses, txnCount, valid, addr, value, dir⟩ := unrecorded.kept
    have gate : u.gateOwner = .host := aborted.unrecorded.kept.1
    rw [raiseHost_owner gate]
    refine ⟨setPhase_phase .idle u, rfl, frStatus, unrecorded.supply.conj, _, unrecorded.trace,
      .inr ⟨error, congrArg (· ++ [[r.status.code]]) responses, fun transport => ?_, unrecorded.seq, txnCount,
        unrecorded.records, valid, addr, value, dir, fun ok passed => ?_, progress.atMostOneCall⟩⟩
    · have raised : r.status = .transportError := transport
      simp [failedWith, raised]
    · obtain ⟨busy, before, k, p, rfl, clean, bound, rfl⟩ := aborted.cause ok passed
      refine ⟨rfl, rfl, rfl, before, k, p, u.phase, ?_, bound, rfl, rfl, clean⟩
      rw [phaseEvents_idle_of_busy busy, gate, List.append_assoc]
      rfl

end Sys2Proof.Machine

/-! ## A transaction no primitive of which fails

The environment's answers are given as a script of quiet primitives, one stretch of the bound slots' number for each
vector operation; each part of a transaction then has one outcome, said once (R203 to R208). -/

namespace Sys2Proof.Machine

/-! ### Ports changed twice -/

theorem portsWith_comp (c : Config) (f g : Nat → Port → Port) (ports : PerSlot Port) :
    portsWith c f (portsWith c g ports) = portsWith c (fun k d => f k (g k d)) ports := by
  refine PerSlot.ext_get fun k hk => ?_
  simp only [get_portsWith _ _ _ hk]
  split <;> rfl

/-- An output level is no part of what a bound slot's `read_input` returns (R72). -/
theorem input_of_output {c : Config} (o : Nat → LMask) (ports : PerSlot Port) {k : Nat} (hk : k < 4) (i : InputSample) :
    ((portsWith c (fun k d => { d with out := some (o k) }) ports).get k).input i = (ports.get k).input i := by
  rw [get_portsWith _ _ _ hk]
  split <;> rfl

theorem returned_of_output {c : Config} (o : Nat → LMask) (ports : PerSlot Port) (g : Nat → InputSample) :
    returned (portsWith c (fun k d => { d with out := some (o k) }) ports) g = returned ports g := by
  refine PerSlot.ext_get fun k hk => ?_
  simp only [returned, PerSlot.get_tabulate _ hk, input_of_output o ports hk]

theorem readEvents_of_output {c : Config} (o : Nat → LMask) (ports : PerSlot Port) (g : Nat → InputSample) :
    readEvents g (portsWith c (fun k d => { d with out := some (o k) }) ports) c.boundSlots =
      readEvents g ports c.boundSlots := by
  refine List.map_congr_left fun k hk => ?_
  rw [input_of_output o ports (Config.isBound_lt ((c.mem_boundSlots k).mp hk))]

/-! ### The sampled values -/

theorem sampleBits_lt (input : VMask) (pins : List VPin) : sampleBits input pins < 2 ^ pins.length := by
  simpa [sampleBits] using bitsToNat_lt (pins.map fun p => input.getLsbD (bitOfPin p))

/-- An address of at most 32 bits is held whole (R204). -/
theorem toNat_decodeAddress {c : Config} (input : VMask) (narrow : c.roleMap.addressBits.length ≤ 32) :
    (decodeAddress c input).toNat = sampleBits input c.roleMap.addressBits := by
  have fits : sampleBits input c.roleMap.addressBits < 2 ^ 32 :=
    (sampleBits_lt input _).trans_le (Nat.pow_le_pow_right (by omega) narrow)
  rw [decodeAddress, BitVec.toNat_ofNat, Nat.mod_eq_of_lt fits]

theorem leBytes_four (n : Nat) : leBytes 4 n = fourBytes n := by
  simp [leBytes, fourBytes, Nat.div_div_eq_div_mul]

/-! ### The parts of a transaction -/

/-- The coming primitives of one vector operation complete. -/
def quietThen (c : Config) (rest : List Bool) : List Bool := List.replicate c.boundSlots.length false ++ rest

/-- A script of five quiet vector operations. -/
theorem quietThen_five (c : Config) (rest : List Bool) :
    List.replicate (5 * c.boundSlots.length) false ++ rest =
      quietThen c (quietThen c (quietThen c (quietThen c (quietThen c rest)))) := by
  simp only [quietThen, ← List.append_assoc, ← List.replicate_add]
  congr 2
  omega

/-- The state after a change of phase (R201). -/
def entered (q : Phase) (s : State) : State :=
  { s with
    phase := q, seq := s.seq + 1#32, trace := s.trace ++ [.phase (s.seq + 1#32) s.phase q s.gateOwner] }

theorem setPhase_eq_entered {q : Phase} {s : State} (change : s.phase ≠ q) : setPhase q s = entered q s :=
  setPhase_change q s change

/-- The state after each bound slot's `set_tristate` completed (R164, R166). -/
def triStated (L : PerSlot LMask) (rest : List Bool) (s : State) : State :=
  { allIssued (fun k => .setTristate (L.get k)) rest s with busUnknown := false }

/-- The state after each bound slot's `set_output` completed, the clock's slot last (R74). -/
def outputsSet (L : PerSlot LMask) (rest : List Bool) (s : State) : State :=
  { s with
    ports := portsWith s.cfg (fun k d => { d with out := some (L.get k) }) s.ports
    trace := s.trace ++ (clockLastSlots s.cfg).map (fun k => .dev k (.setOutput (L.get k)) .ok)
    env := { s.env with transport := rest, draws := s.env.draws + s.cfg.boundSlots.length } }

/-- The state after a vector read latched address and direction (R204). -/
def busSampled (f : Nat → InputSample) (rest : List Bool) (restI : List InputSample) (s : State) : State :=
  { allRead f rest restI s with
    curAddr := decodeAddress s.cfg (aggregate s.cfg (returned s.ports f))
    curDir := decodeDirection s.cfg (aggregate s.cfg (returned s.ports f)) }

/-- The state after a vector read latched the data byte (R207). -/
def dataSampled (g : Nat → InputSample) (rest : List Bool) (restI : List InputSample) (s : State) : State :=
  { allRead g rest restI s with
    curValue := BitVec.ofNat 8 (sampleBits (aggregate s.cfg (returned s.ports g)) (s.cfg.roleMap.dataBits.take 8)) }

/-- The state after the fetch of a read (R206). -/
def fetched (s : State) : State :=
  { (memRead s.curAddr.toNat s).2 with curValue := s.mem.read s.curAddr.toNat }

/-- The state after the store of a write (R207). -/
def stored (s : State) : State := memWrite s.curAddr.toNat s.curValue s

theorem readFetch_eq (s : State) : readFetch s = .done () (fetched s) := rfl

theorem writeStore_eq (s : State) : writeStore s = .done () (stored s) := rfl

/-- The end of a transaction (R208). -/
def concluded (s : State) : State := entered .idle (settleRecord (entered .settled s))

/-! ### Their fields -/


section Fields

variable (L : PerSlot LMask) (f : Nat → InputSample) (rest : List Bool) (restI : List InputSample) (s : State)

@[simp] theorem triStated_cfg : (triStated L rest s).cfg = s.cfg := rfl
@[simp] theorem triStated_transport : (triStated L rest s).env.transport = rest := rfl
@[simp] theorem triStated_mem : (triStated L rest s).mem = s.mem := rfl
@[simp] theorem triStated_curAddr : (triStated L rest s).curAddr = s.curAddr := rfl
@[simp] theorem outputsSet_cfg : (outputsSet L rest s).cfg = s.cfg := rfl
@[simp] theorem outputsSet_transport : (outputsSet L rest s).env.transport = rest := rfl
@[simp] theorem outputsSet_inputs : (outputsSet L rest s).env.inputs = s.env.inputs := rfl
@[simp] theorem outputsSet_curValue : (outputsSet L rest s).curValue = s.curValue := rfl
@[simp] theorem dataSampled_cfg : (dataSampled f rest restI s).cfg = s.cfg := rfl
@[simp] theorem dataSampled_transport : (dataSampled f rest restI s).env.transport = rest := rfl
@[simp] theorem fetched_cfg : (fetched s).cfg = s.cfg := rfl
@[simp] theorem fetched_env : (fetched s).env = s.env := rfl
@[simp] theorem fetched_curValue : (fetched s).curValue = s.mem.read s.curAddr.toNat := rfl
@[simp] theorem stored_cfg : (stored s).cfg = s.cfg := rfl
@[simp] theorem stored_env : (stored s).env = s.env := rfl

end Fields

/-! ### What they come to -/

/-- The part of a transaction after its sample (R205 to R208). -/
def conclude (s : State) : Run Unit :=
  (match s.curDir with
   | .read => readDrive (branchPhase s)
   | .write => writeCapture (branchPhase s)).andThen fun _ s =>
  .done () (setPhase .idle (settleRecord (setPhase .settled s)))

theorem transaction_eq (s : State) :
    transaction s = (precheck s).andThen fun _ s => (floatBus s).andThen fun _ s =>
      (sampleBus (setPhase .sampled s)).andThen fun _ s => conclude s := rfl

section Quiet

variable {s : State} {rest : List Bool} {restI : List InputSample}

theorem triState_quiet {m : VMask} {L : PerSlot LMask} (translates : fanOut s.cfg m = .ok L)
    (quiet : s.env.transport = quietThen s.cfg rest) :
    vecWrite .tristate m s.cfg.boundSlots s = .done () (triStated L rest s) :=
  vecWrite_quiet .tristate m _ s L rest translates (List.Perm.refl _) quiet

theorem driveClock_quiet {c : Config} (cfg : s.cfg = c) {clk : Bool} {v : Option Byte} {L : PerSlot LMask}
    (translates : fanOut c (driveMask c clk v) = .ok L) (quiet : s.env.transport = quietThen c rest) :
    driveClock clk v s = .done () (outputsSet L rest s) := by
  subst cfg
  have length := length_clockLastSlots s.cfg
  have h := vecWrite_quiet .output (driveMask s.cfg clk v) _ s L rest translates (clockLastSlots_perm s.cfg)
    (length.symm ▸ quiet)
  rw [length] at h
  exact h

theorem sampleBus_quiet {c : Config} (cfg : s.cfg = c) {f : Nat → InputSample}
    (quiet : s.env.transport = quietThen c rest) (inputs : s.env.inputs = c.boundSlots.map f ++ restI) :
    sampleBus s = .done () (busSampled f rest restI s) := by
  subst cfg
  rw [sampleBus, vecRead_quiet f s rest restI quiet inputs]
  rfl

theorem writeSample_quiet {c : Config} (cfg : s.cfg = c) {g : Nat → InputSample}
    (quiet : s.env.transport = quietThen c rest) (inputs : s.env.inputs = c.boundSlots.map g ++ restI) :
    writeSample s = .done () (dataSampled g rest restI s) := by
  subst cfg
  rw [writeSample, vecRead_quiet g s rest restI quiet inputs]
  rfl

/-- `ReadDrive` (R206). -/
theorem readDrive_quiet {c : Config} (cfg : s.cfg = c) {Lr Lh Ll : PerSlot LMask} {v : Byte}
    (value : s.mem.read s.curAddr.toNat = v)
    (quiet : s.env.transport = quietThen c (quietThen c (quietThen c rest)))
    (enable : fanOut c (readTriMask c) = .ok Lr) (high : fanOut c (driveMask c true (some v)) = .ok Lh)
    (low : fanOut c (driveMask c false (some v)) = .ok Ll) :
    readDrive s = .done () (outputsSet Ll rest (outputsSet Lh (quietThen c rest)
      (fetched (triStated Lr (quietThen c (quietThen c rest)) s)))) := by
  subst cfg
  have enabled : readEnable s = .done () (triStated Lr (quietThen s.cfg (quietThen s.cfg rest)) s) :=
    triState_quiet enable quiet
  have clockHigh (u : State) (cfg : u.cfg = s.cfg) (held : u.curValue = v)
      (left : u.env.transport = quietThen s.cfg (quietThen s.cfg rest)) :
      readClockHigh u = .done () (outputsSet Lh (quietThen s.cfg rest) u) := by
    rw [readClockHigh, held, driveClock_quiet cfg high left]
  have clockLow (u : State) (cfg : u.cfg = s.cfg) (held : u.curValue = v)
      (left : u.env.transport = quietThen s.cfg rest) : readClockLow u = .done () (outputsSet Ll rest u) := by
    rw [readClockLow, held, driveClock_quiet cfg low left]
  rw [readDrive, enabled, Run.andThen_done, readFetch_eq, Run.andThen_done, clockHigh _ (by simp) (by simp [value])
    (by simp), Run.andThen_done, clockLow _ (by simp) (by simp [value]) (by simp)]

/-- `WriteCapture` (R207). -/
theorem writeCapture_quiet {c : Config} (cfg : s.cfg = c) {g : Nat → InputSample} {Lh Ll : PerSlot LMask}
    (quiet : s.env.transport = quietThen c (quietThen c (quietThen c rest)))
    (inputs : s.env.inputs = c.boundSlots.map g ++ restI) (high : fanOut c (driveMask c true none) = .ok Lh)
    (low : fanOut c (driveMask c false none) = .ok Ll) :
    writeCapture s = .done () (outputsSet Ll rest (stored (dataSampled g (quietThen c rest) restI
      (outputsSet Lh (quietThen c (quietThen c rest)) s)))) := by
  have clockHigh : writeClockHigh s = .done () (outputsSet Lh (quietThen c (quietThen c rest)) s) :=
    driveClock_quiet cfg high quiet
  have sample (u : State) (cfg : u.cfg = c) (left : u.env.transport = quietThen c (quietThen c rest))
      (answers : u.env.inputs = s.env.inputs) : writeSample u = .done () (dataSampled g (quietThen c rest) restI u) :=
    writeSample_quiet cfg left (answers.trans inputs)
  have clockLow (u : State) (cfg : u.cfg = c) (left : u.env.transport = quietThen c rest) :
      writeClockLow u = .done () (outputsSet Ll rest u) := driveClock_quiet cfg low left
  rw [writeCapture, clockHigh, Run.andThen_done, sample _ (by simp [cfg]) (by simp) (by simp), Run.andThen_done,
    writeStore_eq, Run.andThen_done, clockLow _ (by simp [cfg]) (by simp)]

/-- A transaction up to its sample (R202 to R204). -/
def sampled (f : Nat → InputSample) (L : PerSlot LMask) (rest : List Bool) (restI : List InputSample) (s : State) :
    State :=
  busSampled f rest restI (entered .sampled (triStated L (quietThen s.cfg rest) (entered .floating s)))

/-- A transaction goes on from its sample. -/
theorem transaction_sampled {f : Nat → InputSample} {L : PerSlot LMask} (idle : s.phase = .idle)
    (valid : s.rmStatus = .ok) (translates : fanOut s.cfg (floatMask s.cfg) = .ok L)
    (quiet : s.env.transport = quietThen s.cfg (quietThen s.cfg rest))
    (inputs : s.env.inputs = s.cfg.boundSlots.map f ++ restI) :
    transaction s = conclude (sampled f L rest restI s) := by
  have floating : setPhase .floating s = entered .floating s := setPhase_eq_entered (by simp [idle])
  have floated : floatBus (entered .floating s) = .done () (triStated L (quietThen s.cfg rest) (entered .floating s)) :=
    triState_quiet translates quiet
  have entersSampled (u : State) : setPhase .sampled (triStated L (quietThen s.cfg rest) (entered .floating u)) =
      entered .sampled (triStated L (quietThen s.cfg rest) (entered .floating u)) := setPhase_eq_entered nofun
  have sample := sampleBus_quiet (s := entered .sampled (triStated L (quietThen s.cfg rest) (entered .floating s)))
    rfl rfl inputs
  rw [transaction_eq, precheck_ok valid, Run.andThen_done, floating, floated, Run.andThen_done, entersSampled, sample,
    Run.andThen_done]
  rfl

/-- A read goes on with `ReadDrive` and ends with the record (R205, R208). -/
theorem conclude_read {t : State} (start : s.phase ≠ .readDrive) (dir : s.curDir = .read)
    (run : readDrive (entered .readDrive s) = .done () t) (busy : t.phase = .readDrive) :
    conclude s = .done () (concluded t) := by
  have settles : setPhase .settled t = entered .settled t := setPhase_eq_entered (by simp [busy])
  have ends : setPhase .idle (settleRecord (entered .settled t)) = concluded t := setPhase_eq_entered nofun
  simp only [conclude, branchPhase, dir, setPhase_eq_entered start, run, Run.andThen_done, settles, ends]

/-- A write goes on with `WriteCapture` and ends with the record (R205, R208). -/
theorem conclude_write {t : State} (start : s.phase ≠ .writeCapture) (dir : s.curDir = .write)
    (run : writeCapture (entered .writeCapture s) = .done () t) (busy : t.phase = .writeCapture) :
    conclude s = .done () (concluded t) := by
  have settles : setPhase .settled t = entered .settled t := setPhase_eq_entered (by simp [busy])
  have ends : setPhase .idle (settleRecord (entered .settled t)) = concluded t := setPhase_eq_entered nofun
  simp only [conclude, branchPhase, dir, setPhase_eq_entered start, run, Run.andThen_done, settles, ends]

end Quiet

/-! ### BUS_CYCLE (R206, R207) -/

theorem recordBytes_eq (s : State) :
    recordBytes s = fourBytes s.lastAddr.toNat ++ [s.lastValue, s.lastDir.code] := by
  rw [recordBytes, leBytes_four]

/-- A `BUS_CYCLE` whose transaction completes answers the record (R200). -/
theorem exec_busCycle_done {s t : State} {bytes : List Byte} (ready : s.mode = .ready) (free : s.gateOwner = .free)
    (freeAfter : t.gateOwner = .free)
    (run : transaction { s with gateOwner := .host } = .done () { t with gateOwner := .host })
    (record : recordBytes t = bytes) : exec .busCycle s = .next (answeredWith bytes t) := by
  subst record
  exact (exec_busCycle_eq_gateCommand s).trans (congrArg _ (gateCommand_done ready free freeAfter run))

/-- Settles O32: the end state of a quiet read, written out. -/
theorem busCycleReadCompletes : Obligations.BusCycleReadCompletes := by
  intro s f rest restI Lf Lr Lh Ll b tri input a v order ready free idle valid narrow quiet inputs float enable high low
    dir
  have addr : (decodeAddress s.cfg input).toNat = a := toNat_decodeAddress input narrow
  have reads : decodeDirection s.cfg input = .read := if_pos dir
  rw [quietThen_five] at quiet
  have drive := readDrive_quiet (c := s.cfg) (v := v)
    (s := entered .readDrive (sampled f Lf (quietThen s.cfg (quietThen s.cfg (quietThen s.cfg rest))) restI
      { s with gateOwner := .host }))
    rfl (congrArg s.mem.read addr) rfl enable high low
  have run := (transaction_sampled (s := { s with gateOwner := .host }) idle valid float quiet inputs).trans
    (conclude_read nofun reads drive rfl)
  refine exec_busCycle_done ready free free (run.trans ?_)
    ((recordBytes_eq _).trans (congrArg (fun n => fourBytes n ++ [v, 1#8]) addr))
  simp only [input, tri] at reads addr
  simp only [concluded, entered, settleRecord, outputsSet, fetched, memRead, triStated, allIssued, sampled, busSampled,
    allRead, readEvents, portsWith_comp, Prim.apply, reads, addr, idle]
  simp only [Run.done.injEq, true_and, State.mk.injEq, List.append_assoc, List.cons_append, List.nil_append,
    BitVec.add_assoc, BitVec.reduceAdd, Env.mk.injEq]
  exact ⟨rfl, rfl, rfl, rfl, rfl, by omega⟩

/-- Settles O33: the end state of a quiet write, written out. -/
theorem busCycleWriteCompletes : Obligations.BusCycleWriteCompletes := by
  intro s f g rest restI Lf Lh Ll b tri input a v order ready free idle valid narrow eight quiet inputs float high low
    dir
  have addr : (decodeAddress s.cfg input).toNat = a := toNat_decodeAddress input narrow
  have writes : decodeDirection s.cfg input = .write := if_neg dir
  have whole : s.cfg.roleMap.dataBits.take 8 = s.cfg.roleMap.dataBits := List.take_of_length_le (by omega)
  rw [quietThen_five] at quiet
  have capture := writeCapture_quiet (c := s.cfg) (g := g)
    (s := entered .writeCapture (sampled f Lf (quietThen s.cfg (quietThen s.cfg (quietThen s.cfg rest)))
      (s.cfg.boundSlots.map g ++ restI) { s with gateOwner := .host }))
    rfl rfl rfl high low
  have run := (transaction_sampled (s := { s with gateOwner := .host }) idle valid float quiet inputs).trans
    (conclude_write nofun writes capture rfl)
  refine exec_busCycle_done ready free free (run.trans ?_)
    ((recordBytes_eq _).trans (congrArg (fun n => fourBytes n ++ [v, 0#8]) addr))
  simp only [input, tri] at writes addr
  simp only [concluded, entered, settleRecord, outputsSet, dataSampled, stored, memWrite, triStated, allIssued, sampled,
    busSampled, allRead, readEvents_of_output, returned_of_output, whole, Prim.apply, writes, addr, idle]
  simp only [readEvents, portsWith_comp, Run.done.injEq, true_and, State.mk.injEq, List.append_assoc, List.cons_append,
    List.nil_append, BitVec.add_assoc, BitVec.reduceAdd, Env.mk.injEq]
  exact ⟨rfl, rfl, rfl, rfl, rfl, rfl, by omega⟩

end Sys2Proof.Machine

/-! ## The pins after a transaction

What a completed transaction left on the pins is read off its last tri-state and its last `set_output`, whatever the
environment answered (R36, R210). -/

namespace Sys2Proof.Machine

/-! ### A mask on the pins -/

/-- A mapped pin is one of the enumeration (R144). -/
theorem pin_of_res {c : Config} (wf : registryWf c = true) {p : VPin} {k l : Nat} (hp : res c p = some (k, l)) :
    pinOfBit (bitOfPin p) = p ∧ bitOfPin p < 40 * c.nslots := by
  obtain ⟨inRange, _⟩ := constructFrom_eq_none.mp (constructRegistry_eq_none.mpr wf)
  obtain ⟨d, hd, rfl, _, _⟩ := mem_registry_of_res hp
  obtain ⟨low, high, _⟩ := entryInRange_iff.mp (inRange d hd)
  have low' : (1 : Int) ≤ d.vpin := low
  have high' : ((40 * c.nslots : Nat) : Int) ≥ d.vpin := high
  have number : ((bitOfPin d.vpin : Nat) : Int) = d.vpin - 1 := Int.toNat_of_nonneg (by omega)
  exact ⟨pinOfBit_bitOfPin low, by omega⟩

/-- Translated to local masks, a mask has on a pin's local pin the pin's bit (R65, R160). -/
theorem getLsbD_of_fanOut {c : Config} {m : VMask} {L : PerSlot LMask} (wf : registryWf c = true)
    (translates : fanOut c m = .ok L) {p : VPin} {k l : Nat} (hp : res c p = some (k, l)) (hk : k < 4) :
    (L.get k).getLsbD (l - 1) = m.getLsbD (bitOfPin p) := by
  obtain ⟨low, high⟩ := local_of_res wf hp
  obtain ⟨same, inside⟩ := pin_of_res wf hp
  obtain ⟨_, bits⟩ := fanOut_eq_ok.mp translates
  refine Bool.eq_iff_iff.mpr ((bits k (l - 1) hk (by omega)).trans ⟨?_, fun set => ?_⟩)
  · rintro ⟨i, _, set, l', hi, sameLocal⟩
    obtain ⟨low', _⟩ := local_of_res wf hi
    obtain rfl : l = l' := by omega
    rwa [res_injective wf hp hi, bitOfPin_pinOfBit]
  · exact ⟨bitOfPin p, inside, set, l, same.symm ▸ hp, rfl⟩

/-- The tri-state setting of every pin of a bound slot is the pin's bit of the mask. -/
def TriShows (s : State) (m : VMask) : Prop :=
  ∀ p, onBoundSlot s.cfg p = true → triBit s p = some (m.getLsbD (bitOfPin p))

/-- The output setting of every pin of a bound slot is the pin's bit of the mask. -/
def OutShows (s : State) (m : VMask) : Prop :=
  ∀ p, onBoundSlot s.cfg p = true → outBit s p = some (m.getLsbD (bitOfPin p))

theorem TriShows.congr {s t : State} {m : VMask} (h : TriShows s m) (cfg : t.cfg = s.cfg) (ports : t.ports = s.ports) :
    TriShows t m := by
  simpa only [TriShows, triBit, cfg, ports] using h

theorem OutShows.congr {s t : State} {m : VMask} (h : OutShows s m) (cfg : t.cfg = s.cfg) (ports : t.ports = s.ports) :
    OutShows t m := by
  simpa only [OutShows, outBit, cfg, ports] using h

/-! ### Completed vector operations -/

/-- Primitives on distinct slots that all completed: each slot's port has its primitive's effect. -/
theorem issueAll_done_ports {p : Nat → Prim} {ks : List Nat} {s t : State} {u : Unit} (nodup : ks.Nodup)
    (inRange : ∀ k ∈ ks, k < 4) (h : issueAll p ks s = .done u t) {j : Nat} (hj : j < 4) :
    t.ports.get j = if j ∈ ks then (p j).apply (s.ports.get j) else s.ports.get j := by
  induction ks generalizing s with
  | nil =>
    cases h
    simp
  | cons k ks ih =>
    obtain ⟨fresh, nodup⟩ := List.nodup_cons.mp nodup
    obtain ⟨_, s', first, rest⟩ := Run.andThen_eq_done h
    rw [ih nodup (fun i hi => inRange i (by simp [hi])) rest]
    rcases issue_cases k (p k) s with ⟨e, _, completed⟩ | ⟨e, _, raised⟩
    · cases completed.symm.trans first
      rw [afterPrim_ports, PerSlot.get_set _ _ (inRange k (by simp)) hj]
      by_cases same : j = k
      · subst same
        simp [fresh]
      · simp [same]
    · cases raised.symm.trans first

/-- The operation left the configuration, the latched direction and the data byte as they were. -/
structure SameLatches (s t : State) : Prop where
  cfg : t.cfg = s.cfg
  curDir : t.curDir = s.curDir
  curValue : t.curValue = s.curValue

theorem SameLatches.trans {s t u : State} (h : SameLatches s t) (h' : SameLatches t u) : SameLatches s u :=
  ⟨h'.cfg.trans h.cfg, h'.curDir.trans h.curDir, h'.curValue.trans h.curValue⟩

theorem DevRun.sameLatches {slots : List Nat} {s t : State} (h : DevRun slots s t) : SameLatches s t := by
  rw [h.frame]
  exact ⟨rfl, rfl, rfl⟩

/-- A vector write that completed wrote its mask's translation to every bound slot (R164). -/
theorem vecWrite_done {op : MaskOp} {m : VMask} {order : List Nat} {s t : State} {u : Unit}
    (perm : order.Perm s.cfg.boundSlots) (h : vecWrite op m order s = .done u t) :
    SameLatches s t ∧ ∃ L, fanOut s.cfg m = .ok L ∧
      t.ports = portsWith s.cfg (fun k d => (op.prim (L.get k)).apply d) s.ports := by
  have bound (k : Nat) : k ∈ order ↔ s.cfg.isBound k = true := perm.mem_iff.trans (s.cfg.mem_boundSlots k)
  rcases vecWrite_cases op m order s with
    ⟨e, _, raised⟩ | ⟨L, translates, ⟨k, _, t', _, raised⟩ | ⟨t', ran, issued, done⟩⟩
  · cases raised.symm.trans h
  · cases raised.symm.trans h
  · cases done.symm.trans h
    obtain ⟨latches, ports⟩ : SameLatches t' (op.settle t') ∧ (op.settle t').ports = t'.ports := by
      cases op <;> exact ⟨⟨rfl, rfl, rfl⟩, rfl⟩
    refine ⟨ran.sameLatches.trans latches, L, translates, ports.trans (PerSlot.ext_get fun j hj => ?_)⟩
    rw [issueAll_done_ports (perm.nodup_iff.mpr s.cfg.boundSlots_nodup)
      (fun k hk => Config.isBound_lt ((bound k).mp hk)) issued hj, get_portsWith _ _ _ hj]
    simp only [bound]

/-- A vector read that completed left ports and latched registers. -/
theorem vecRead_done {s t : State} {input : VMask} (h : vecRead s = .done input t) :
    SameLatches s t ∧ t.ports = s.ports := by
  rcases vecRead_cases s with ⟨k, _, t', _, _, raised⟩ | ⟨I, t', ran, ports, done⟩
  · cases raised.symm.trans h
  · cases done.symm.trans h
    exact ⟨ran.sameLatches, ports⟩

/-- The local settings of a pin of a bound slot. -/
theorem triBit_of_res {s : State} {p : VPin} {k l : Nat} (hp : res s.cfg p = some (k, l)) :
    triBit s p = (s.ports.get k).tri.map fun t => t.getLsbD (l - 1) := by
  simp only [triBit, hp]

theorem outBit_of_res {s : State} {p : VPin} {k l : Nat} (hp : res s.cfg p = some (k, l)) :
    outBit s p = (s.ports.get k).out.map fun o => o.getLsbD (l - 1) := by
  simp only [outBit, hp]

/-- A completed tri-state shows its mask. -/
theorem triState_done {m : VMask} {s t : State} {u : Unit} (wf : registryWf s.cfg = true)
    (h : vecWrite .tristate m s.cfg.boundSlots s = .done u t) : SameLatches s t ∧ TriShows t m := by
  obtain ⟨same, L, translates, ports⟩ := vecWrite_done (List.Perm.refl _) h
  refine ⟨same, fun p mapped => ?_⟩
  rw [same.cfg] at mapped
  obtain ⟨k, l, hp, bound⟩ := onBoundSlot_iff.mp mapped
  have hk := Config.isBound_lt bound
  rw [triBit_of_res (same.cfg.symm ▸ hp), ports, get_portsWith _ _ _ hk, if_pos bound,
    ← getLsbD_of_fanOut wf translates hp hk]
  rfl

/-- A completed `set_output` of the sequencer shows its mask, and leaves the tri-state settings. -/
theorem driveClock_done {clk : Bool} {v : Option Byte} {s t : State} {u : Unit} (wf : registryWf s.cfg = true)
    (h : driveClock clk v s = .done u t) :
    SameLatches s t ∧ OutShows t (driveMask s.cfg clk v) ∧ ∀ m, TriShows s m → TriShows t m := by
  obtain ⟨same, L, translates, ports⟩ := vecWrite_done (clockLastSlots_perm s.cfg) h
  refine ⟨same, fun p mapped => ?_, fun m shown p mapped => ?_⟩ <;> rw [same.cfg] at mapped <;>
    obtain ⟨k, l, hp, bound⟩ := onBoundSlot_iff.mp mapped <;> have hk := Config.isBound_lt bound
  · rw [outBit_of_res (same.cfg.symm ▸ hp), ports, get_portsWith _ _ _ hk, if_pos bound,
      ← getLsbD_of_fanOut wf translates hp hk]
    rfl
  · rw [← shown p mapped, triBit_of_res (same.cfg.symm ▸ hp), triBit_of_res hp, ports, get_portsWith _ _ _ hk,
      if_pos bound]
    rfl

/-! ### Completed transactions -/

/-- A completed `ReadDrive` leaves the data pins driven with the byte, the clock low (R206). -/
theorem readDrive_done {s t : State} {u : Unit} (wf : registryWf s.cfg = true) (h : readDrive s = .done u t) :
    t.cfg = s.cfg ∧ t.curDir = s.curDir ∧ TriShows t (readTriMask s.cfg) ∧
      OutShows t (driveMask s.cfg false (some t.curValue)) := by
  obtain ⟨_, a, enable, h⟩ := Run.andThen_eq_done h
  obtain ⟨_, b, fetch, h⟩ := Run.andThen_eq_done h
  obtain ⟨_, c, high, low⟩ := Run.andThen_eq_done h
  obtain ⟨enabled, tri⟩ := triState_done wf enable
  cases (readFetch_eq a).symm.trans fetch
  have cfg : (fetched a).cfg = s.cfg := enabled.cfg
  obtain ⟨clockHigh, _, keepHigh⟩ := driveClock_done (cfg.symm ▸ wf) high
  obtain ⟨clockLow, out, keepLow⟩ := driveClock_done (clockHigh.cfg.trans cfg ▸ wf) low
  have cfg' := clockHigh.cfg.trans cfg
  rw [cfg', ← clockLow.curValue] at out
  exact ⟨clockLow.cfg.trans cfg', clockLow.curDir.trans (clockHigh.curDir.trans enabled.curDir),
    keepLow _ (keepHigh _ (tri.congr rfl rfl)), out⟩

/-- The sample changes no port (R71). -/
theorem sampleBus_done {s t : State} {u : Unit} (h : sampleBus s = .done u t) :
    t.cfg = s.cfg ∧ t.ports = s.ports := by
  obtain ⟨_, s', read, latch⟩ := Run.andThen_eq_done h
  obtain ⟨sampled, ports⟩ := vecRead_done read
  cases latch
  exact ⟨sampled.cfg, ports⟩

theorem writeSample_done {s t : State} {u : Unit} (h : writeSample s = .done u t) :
    t.cfg = s.cfg ∧ t.ports = s.ports ∧ t.curDir = s.curDir := by
  obtain ⟨_, s', read, latch⟩ := Run.andThen_eq_done h
  obtain ⟨sampled, ports⟩ := vecRead_done read
  cases latch
  exact ⟨sampled.cfg, ports, sampled.curDir⟩

/-- A completed `WriteCapture` leaves the tri-states as they were, the clock low (R207). -/
theorem writeCapture_done {s t : State} {u : Unit} (wf : registryWf s.cfg = true) (h : writeCapture s = .done u t) :
    t.cfg = s.cfg ∧ t.curDir = s.curDir ∧ OutShows t (driveMask s.cfg false none) ∧
      ∀ m, TriShows s m → TriShows t m := by
  obtain ⟨_, a, high, h⟩ := Run.andThen_eq_done h
  obtain ⟨_, b, sample, h⟩ := Run.andThen_eq_done h
  obtain ⟨_, c, store, low⟩ := Run.andThen_eq_done h
  obtain ⟨clockHigh, _, keepHigh⟩ := driveClock_done wf high
  obtain ⟨cfg, ports, dir⟩ := writeSample_done sample
  cases (writeStore_eq b).symm.trans store
  have same : (stored b).cfg = s.cfg := cfg.trans clockHigh.cfg
  obtain ⟨clockLow, out, keepLow⟩ := driveClock_done (same.symm ▸ wf) low
  have lastDir : t.curDir = b.curDir := clockLow.curDir
  refine ⟨clockLow.cfg.trans same, lastDir.trans (dir.trans clockHigh.curDir), same ▸ out, fun m shown => ?_⟩
  have stays : TriShows b m := (keepHigh m shown).congr cfg ports
  exact keepLow m (stays.congr rfl rfl)

/-- The end of a transaction changes no port and records the latched direction and byte (R208). -/
theorem settled_fields (s : State) :
    (setPhase .idle (settleRecord (setPhase .settled s))).cfg = s.cfg ∧
      (setPhase .idle (settleRecord (setPhase .settled s))).ports = s.ports ∧
      (setPhase .idle (settleRecord (setPhase .settled s))).lastDir = s.curDir ∧
      (setPhase .idle (settleRecord (setPhase .settled s))).lastValue = s.curValue := by
  simp

/-- What a transaction in direction `d` with byte `v` leaves on the pins: in a read the data pins leave the tri-state
and carry the byte, in a write they stay in it; the clock ends low (R206, R207). -/
def PinsLeft (d : Direction) (v : Byte) (s : State) : Prop :=
  match d with
  | .read => TriShows s (readTriMask s.cfg) ∧ OutShows s (driveMask s.cfg false (some v))
  | .write => TriShows s (floatMask s.cfg) ∧ OutShows s (driveMask s.cfg false none)

theorem PinsLeft.congr {d : Direction} {v : Byte} {s t : State} (h : PinsLeft d v s) (cfg : t.cfg = s.cfg)
    (ports : t.ports = s.ports) : PinsLeft d v t := by
  cases d with
  | read =>
    obtain ⟨tri, out⟩ := h
    exact ⟨cfg.symm ▸ tri.congr cfg ports, cfg.symm ▸ out.congr cfg ports⟩
  | write =>
    obtain ⟨tri, out⟩ := h
    exact ⟨cfg.symm ▸ tri.congr cfg ports, cfg.symm ▸ out.congr cfg ports⟩

/-- A completed branch of a transaction, from a floating bus (R205). -/
theorem conclude_done {s t : State} {u : Unit} (wf : registryWf s.cfg = true) (floating : TriShows s (floatMask s.cfg))
    (h : conclude s = .done u t) : t.cfg = s.cfg ∧ PinsLeft t.lastDir t.lastValue t := by
  obtain ⟨_, e, branch, ended⟩ := Run.andThen_eq_done h
  obtain ⟨_, rfl⟩ := Run.done.inj ended
  obtain ⟨cfg, ports, lastDir, lastValue⟩ := settled_fields e
  unfold branchPhase at branch
  cases dir : s.curDir with
  | read =>
    simp only [dir] at branch
    obtain ⟨cfg', dir', tri, out⟩ := readDrive_done (by rwa [setPhase_cfg]) branch
    rw [setPhase_cfg] at cfg' tri out
    rw [setPhase_curDir, dir] at dir'
    rw [lastDir, lastValue, dir']
    exact ⟨cfg.trans cfg', PinsLeft.congr (d := .read) ⟨cfg'.symm ▸ tri, cfg'.symm ▸ out⟩ cfg ports⟩
  | write =>
    simp only [dir] at branch
    obtain ⟨cfg', dir', out, keeps⟩ := writeCapture_done (by rwa [setPhase_cfg]) branch
    rw [setPhase_cfg] at cfg' out
    rw [setPhase_curDir, dir] at dir'
    have tri := keeps _ (floating.congr (setPhase_cfg _ _) (setPhase_ports _ _))
    rw [lastDir, lastValue, dir']
    exact ⟨cfg.trans cfg', PinsLeft.congr (d := .write) ⟨cfg'.symm ▸ tri, cfg'.symm ▸ out⟩ cfg ports⟩

/-- The pins after a completed transaction. -/
theorem transaction_done {s t : State} {u : Unit} (wf : registryWf s.cfg = true) (h : transaction s = .done u t) :
    t.cfg = s.cfg ∧ PinsLeft t.lastDir t.lastValue t := by
  rw [transaction_eq] at h
  obtain ⟨_, a, pre, h⟩ := Run.andThen_eq_done h
  obtain ⟨_, b, float, h⟩ := Run.andThen_eq_done h
  obtain ⟨_, c, sample, h⟩ := Run.andThen_eq_done h
  have begun : a.cfg = s.cfg := by
    have kept := (precheck_keepsPort s).port.cfg
    rwa [pre] at kept
  obtain ⟨floated, tri⟩ := triState_done (begun.symm ▸ wf) float
  obtain ⟨cfg, ports⟩ := sampleBus_done sample
  rw [setPhase_cfg, floated.cfg] at cfg
  rw [setPhase_ports] at ports
  have floating : TriShows c (floatMask c.cfg) := cfg.symm ▸ tri.congr (cfg.trans floated.cfg.symm) ports
  obtain ⟨cfg', left⟩ := conclude_done (cfg.trans begun ▸ wf) floating h
  exact ⟨cfg'.trans (cfg.trans begun), left⟩

/-! ### The roles' bits (R23, R24) -/

/-- The role pins have each one role (R323). -/
structure RolesApart (c : Config) : Prop where
  usable : ∀ p ∈ rolePins c, onBoundSlot c p = true
  input : ∀ p ∈ c.roleMap.rwPin :: c.roleMap.addressBits, hostDriven c p = false ∧ p ∉ c.roleMap.dataBits
  data : ∀ p ∈ c.roleMap.dataBits, hostDriven c p = false
  clock : ∀ f ∈ c.roleMap.alwaysDriven, f.pin ≠ c.roleMap.clockPin
  dataNodup : c.roleMap.dataBits.Nodup

theorem rolesApart_of_checkRoleMap {c : Config} (h : checkRoleMap c = none) : RolesApart c := by
  obtain ⟨_, _, nodup, usable⟩ := checkRoleMap_eq_none.mp h
  have mapped (p : VPin) (hp : p ∈ rolePins c) : onBoundSlot c p = true :=
    onBoundSlot_iff.mpr (pinFault_eq_none.mp (usable p hp))
  obtain ⟨front, _, driven⟩ := List.nodup_append.mp nodup
  obtain ⟨lines, controls, apart⟩ := List.nodup_append.mp front
  obtain ⟨_, dataNodup, addressData⟩ := List.nodup_append.mp lines
  have rwClock : c.roleMap.rwPin ≠ c.roleMap.clockPin := by simpa using controls
  have notDriven (p : VPin)
      (hp : p ∈ c.roleMap.addressBits ++ c.roleMap.dataBits ++ [c.roleMap.rwPin, c.roleMap.clockPin])
      (notClock : p ≠ c.roleMap.clockPin) : hostDriven c p = false := by
    rw [← Bool.not_eq_true, hostDriven_iff]
    rintro (clock | ⟨f, hf, rfl⟩)
    · exact notClock clock
    · exact driven _ hp _ (List.mem_map_of_mem hf) rfl
  refine ⟨mapped, ?_, fun p hp => ?_, fun f hf same => ?_, dataNodup⟩
  · rintro p hp
    rcases List.mem_cons.mp hp with rfl | hp
    · exact ⟨notDriven _ (by simp) rwClock, fun hd => apart _ (by simp [hd]) c.roleMap.rwPin (by simp) rfl⟩
    · exact ⟨notDriven p (by simp [hp]) (apart p (by simp [hp]) _ (by simp)), fun hd => addressData p hp p hd rfl⟩
  · exact notDriven p (by simp [hp]) (apart p (by simp [hp]) _ (by simp))
  · exact driven c.roleMap.clockPin (by simp) _ (List.mem_map_of_mem hf) same.symm

section RoleBits

variable {c : Config} {p : VPin}

theorem hostDriven_clockPin (c : Config) : hostDriven c c.roleMap.clockPin = true := hostDriven_iff.mpr (.inl rfl)

theorem RolesApart.clockPin_not_mem (roles : RolesApart c) : c.roleMap.clockPin ∉ c.roleMap.dataBits := fun data =>
  absurd (hostDriven_clockPin c) (by simp [roles.data _ data])

/-- A mask's bit of a mapped pin is the pin's membership. -/
theorem getLsbD_pinMask_bitOfPin (wf : registryWf c = true) (hn : c.nslots ≤ 4) (mapped : onBoundSlot c p = true)
    (S : VPin → Bool) : (pinMask c S).getLsbD (bitOfPin p) = S p := by
  obtain ⟨k, l, hp, _⟩ := onBoundSlot_iff.mp mapped
  obtain ⟨same, inside⟩ := pin_of_res wf hp
  rw [getLsbD_pinMask_of_lt S hn inside, same]

/-- A floating bus tri-states every mapped pin the host does not drive. -/
theorem getLsbD_floatMask (wf : registryWf c = true) (hn : c.nslots ≤ 4) (mapped : onBoundSlot c p = true) :
    (floatMask c).getLsbD (bitOfPin p) = !hostDriven c p := by
  rw [floatMask, getLsbD_pinMask_bitOfPin wf hn mapped, mapped, Bool.true_and]

/-- In `ReadDrive` the data pins are driven as well. -/
theorem getLsbD_readTriMask (wf : registryWf c = true) (hn : c.nslots ≤ 4) (mapped : onBoundSlot c p = true) :
    (readTriMask c).getLsbD (bitOfPin p) = (!hostDriven c p && !decide (p ∈ c.roleMap.dataBits)) := by
  rw [readTriMask, getLsbD_pinMask_bitOfPin wf hn mapped, mapped, Bool.true_and]
  congr 2
  exact Bool.eq_iff_iff.mpr (by simp)

/-- With the clock low its output bit is clear. -/
theorem getLsbD_driveMask_clock (wf : registryWf c = true) (hn : c.nslots ≤ 4) (roles : RolesApart c)
    (v : Option Byte) : (driveMask c false v).getLsbD (bitOfPin c.roleMap.clockPin) = false := by
  have mapped := roles.usable c.roleMap.clockPin (by simp [rolePins])
  have notFixed : (c.roleMap.alwaysDriven.any fun f => f.pin == c.roleMap.clockPin && f.level) = false := by
    simp only [List.any_eq_false, Bool.and_eq_true, beq_iff_eq, not_and]
    exact fun f hf same => absurd same (roles.clock f hf)
  rw [driveMask, getLsbD_pinMask_bitOfPin wf hn mapped, notFixed]
  cases v with
  | none => rfl
  | some b => simpa using fun set => roles.clockPin_not_mem (mem_of_dataBitSet set)

/-- A driven data pin carries its bit of the byte. -/
theorem getLsbD_driveMask_data (wf : registryWf c = true) (hn : c.nslots ≤ 4) (roles : RolesApart c) {i : Nat}
    (hi : c.roleMap.dataBits[i]? = some p) (v : Byte) :
    (driveMask c false (some v)).getLsbD (bitOfPin p) = v.getLsbD i := by
  have data := List.mem_of_getElem? hi
  have mapped := roles.usable p (by simp [rolePins, data])
  have notFixed : (c.roleMap.alwaysDriven.any fun f => f.pin == p && f.level) = false := by
    simp only [List.any_eq_false, Bool.and_eq_true, beq_iff_eq, not_and]
    intro f hf same
    exact absurd (hostDriven_iff.mpr (.inr ⟨f, hf, same⟩)) (by simp [roles.data p data])
  have carried : dataBitSet v p c.roleMap.dataBits 0 = v.getLsbD i := by
    rw [Bool.eq_iff_iff, dataBitSet_iff]
    simp only [Nat.zero_add]
    refine ⟨fun ⟨j, hj, set⟩ => ?_, fun set => ⟨i, hi, set⟩⟩
    obtain ⟨inside, _⟩ := List.getElem?_eq_some_iff.mp hj
    rwa [← (List.getElem?_inj inside roles.dataNodup).mp (hj.trans hi.symm)]
  rw [driveMask, getLsbD_pinMask_bitOfPin wf hn mapped, notFixed]
  exact carried

end RoleBits

/-! ### Who owns which pin (R36, R210) -/

section Ownership

variable {s : State} {d : Direction} {v : Byte}

/-- The address and rw pins end tri-stated. -/
theorem PinsLeft.inputs (left : PinsLeft d v s) (wf : registryWf s.cfg = true) (hn : s.cfg.nslots ≤ 4)
    (roles : RolesApart s.cfg) {p : VPin} (hp : p ∈ s.cfg.roleMap.rwPin :: s.cfg.roleMap.addressBits) :
    triBit s p = some true := by
  obtain ⟨notDriven, notData⟩ := roles.input p hp
  have mapped : onBoundSlot s.cfg p = true := roles.usable p <| by
    rcases List.mem_cons.mp hp with rfl | hp
    · simp [rolePins]
    · simp [rolePins, hp]
  cases d with
  | read => simp [left.1 p mapped, getLsbD_readTriMask wf hn mapped, notDriven, notData]
  | write => simp [left.1 p mapped, getLsbD_floatMask wf hn mapped, notDriven]

/-- The clock ends driven low. -/
theorem PinsLeft.clock (left : PinsLeft d v s) (wf : registryWf s.cfg = true) (hn : s.cfg.nslots ≤ 4)
    (roles : RolesApart s.cfg) :
    triBit s s.cfg.roleMap.clockPin = some false ∧ outBit s s.cfg.roleMap.clockPin = some false := by
  have mapped := roles.usable s.cfg.roleMap.clockPin (by simp [rolePins])
  have driven := hostDriven_clockPin s.cfg
  cases d with
  | read =>
    exact ⟨by simp [left.1 _ mapped, getLsbD_readTriMask wf hn mapped, driven],
      by simp [left.2 _ mapped, getLsbD_driveMask_clock wf hn roles]⟩
  | write =>
    exact ⟨by simp [left.1 _ mapped, getLsbD_floatMask wf hn mapped, driven],
      by simp [left.2 _ mapped, getLsbD_driveMask_clock wf hn roles]⟩

/-- After a read every data pin is driven with its bit of the byte. -/
theorem PinsLeft.hostOwned (left : PinsLeft .read v s) (wf : registryWf s.cfg = true) (hn : s.cfg.nslots ≤ 4)
    (roles : RolesApart s.cfg) :
    HostOwned s ∧ ∀ i p, s.cfg.roleMap.dataBits[i]? = some p → outBit s p = some (v.getLsbD i) := by
  obtain ⟨tri, out⟩ := left
  have mapped (p : VPin) (hp : p ∈ s.cfg.roleMap.dataBits) : onBoundSlot s.cfg p = true :=
    roles.usable p (by simp [rolePins, hp])
  refine ⟨fun p hp => ?_, fun i p hi => ?_⟩
  · simp [tri p (mapped p hp), getLsbD_readTriMask wf hn (mapped p hp), hp]
  · rw [out p (mapped p (List.mem_of_getElem? hi)), getLsbD_driveMask_data wf hn roles hi]

/-- After a write every data pin is tri-stated. -/
theorem PinsLeft.targetOwned (left : PinsLeft .write v s) (wf : registryWf s.cfg = true) (hn : s.cfg.nslots ≤ 4)
    (roles : RolesApart s.cfg) : TargetOwned s := by
  intro p hp
  have mapped := roles.usable p (by simp [rolePins, hp])
  simp [left.1 p mapped, getLsbD_floatMask wf hn mapped, roles.data p hp]

end Ownership

/-- A `BUS_CYCLE` that answers `OK` leaves the pins as its transaction did. -/
theorem busCycle_pinsLeft {s t : State} (ready : s.mode = .ready) (free : s.gateOwner = .free)
    (wf : registryWf s.cfg = true) (h : exec .busCycle s = .next t) (ok : t.lastStatus = .ok) :
    t.cfg = s.cfg ∧ PinsLeft t.lastDir t.lastValue t := by
  rcases busCycle_cases ready free h with ⟨u, ended, rfl⟩ | ⟨r, u, _, error, rfl⟩
  · obtain ⟨cfg, left⟩ := transaction_done (s := { s with gateOwner := .host }) wf ended
    have same : (complete (recordBytes u) (releaseGate .host u)).cfg = u.cfg ∧
        (complete (recordBytes u) (releaseGate .host u)).ports = u.ports ∧
        (complete (recordBytes u) (releaseGate .host u)).lastDir = u.lastDir ∧
        (complete (recordBytes u) (releaseGate .host u)).lastValue = u.lastValue := by simp [complete]
    obtain ⟨cfg', ports, dir, value⟩ := same
    rw [dir, value]
    exact ⟨cfg'.trans cfg, left.congr cfg' ports⟩
  · exact absurd ((raiseHost_lastStatus r u).symm.trans ok) error

/-- Settles O36: the pins as the last tri-state and the last `set_output` left them, read role by role. -/
theorem dataBusOwnershipAfterCycle : Obligations.DataBusOwnershipAfterCycle := by
  intro s t ready free hn wf passed h ok
  obtain ⟨cfg, left⟩ := busCycle_pinsLeft ready free wf h ok
  rw [← cfg] at hn wf passed ⊢
  have roles := rolesApart_of_checkRoleMap passed
  obtain ⟨clockTri, clockOut⟩ := left.clock wf hn roles
  refine ⟨fun p hp => left.inputs wf hn roles hp, clockTri, clockOut, fun dir => ?_, fun dir => ?_⟩ <;> rw [dir] at left
  · obtain ⟨owned, carried⟩ := left.hostOwned wf hn roles
    exact ⟨owned, fun i p _ hi => carried i p hi⟩
  · exact left.targetOwned wf hn roles

end Sys2Proof.Machine

/-! ## The worker's transaction

The worker does a transaction one action at a time (R253). What is left of it from one of its actions on is again an
operation, `remainder`: from the first action it is the body of `BUS_CYCLE`, and at each action the worker does the head
of it. No action reads the worker's own place in its loop or its cancel flag. -/

namespace Sys2Proof.Machine

/-! ### The worker's place and cancel flag -/

/-- The state with the worker at another place of its loop, or with another value of the cancel flag. -/
def State.withLoop (w : WorkerStage) (cancel : Bool) (s : State) : State :=
  { s with frStage := w, frCancel := cancel }

/-- The same outcome, the state it leaves changed. -/
def Run.onState {α : Type} (f : State → State) : Run α → Run α
  | .done a s => .done a (f s)
  | .error e s => .error e (f s)

/-- What commutes with a change of the state, operation by operation, commutes with it one after another. -/
theorem Run.onState_andThen {α β : Type} {f : State → State} {g : α → State → Run β}
    (hg : ∀ a t, g a (f t) = (g a t).onState f) (r : Run α) :
    (r.onState f).andThen g = (r.andThen g).onState f := by
  cases r with
  | done a t => exact hg a t
  | error e t => rfl

section WithLoop

variable (w : WorkerStage) (cancel : Bool) (s : State)

theorem setPhase_withLoop (p : Phase) : setPhase p (s.withLoop w cancel) = (setPhase p s).withLoop w cancel := by
  by_cases same : s.phase = p
  · rw [setPhase_same p s same, setPhase_same p (s.withLoop w cancel) same]
  · rw [setPhase_change p s same, setPhase_change p (s.withLoop w cancel) same]
    rfl

theorem issue_withLoop (k : Nat) (p : Prim) :
    issue k p (s.withLoop w cancel) = (issue k p s).onState (State.withLoop w cancel) := by
  have env : (s.withLoop w cancel).env = s.env := rfl
  simp only [issue, env]
  split <;> rfl

theorem issueRead_withLoop (k : Nat) :
    issueRead k (s.withLoop w cancel) = (issueRead k s).onState (State.withLoop w cancel) := by
  have env : (s.withLoop w cancel).env = s.env := rfl
  simp only [issueRead, env]
  split <;> rfl

theorem issueAll_withLoop (p : Nat → Prim) (ks : List Nat) :
    issueAll p ks (s.withLoop w cancel) = (issueAll p ks s).onState (State.withLoop w cancel) := by
  induction ks generalizing s with
  | nil => rfl
  | cons k ks ih =>
    simp only [issueAll, issue_withLoop]
    exact Run.onState_andThen (fun _ t => ih t) _

theorem readAll_withLoop (ks : List Nat) (I : PerSlot LMask) :
    readAll ks I (s.withLoop w cancel) = (readAll ks I s).onState (State.withLoop w cancel) := by
  induction ks generalizing s I with
  | nil => rfl
  | cons k ks ih =>
    simp only [readAll, issueRead_withLoop]
    exact Run.onState_andThen (fun _ t => ih t _) _

theorem settle_withLoop (op : MaskOp) : op.settle (s.withLoop w cancel) = (op.settle s).withLoop w cancel := by
  cases op <;> rfl

theorem vecWrite_withLoop (op : MaskOp) (m : VMask) (order : List Nat) :
    vecWrite op m order (s.withLoop w cancel) = (vecWrite op m order s).onState (State.withLoop w cancel) := by
  have cfg : (s.withLoop w cancel).cfg = s.cfg := rfl
  simp only [vecWrite, cfg]
  cases fanOut s.cfg m with
  | error e => rfl
  | ok L =>
    simp only [issueAll_withLoop]
    refine Run.onState_andThen (fun _ t => ?_) _
    rw [settle_withLoop]
    rfl

theorem vecRead_withLoop : vecRead (s.withLoop w cancel) = (vecRead s).onState (State.withLoop w cancel) := by
  have cfg : (s.withLoop w cancel).cfg = s.cfg := rfl
  simp only [vecRead, cfg, readAll_withLoop]
  exact Run.onState_andThen (fun _ _ => rfl) _

theorem precheck_withLoop : precheck (s.withLoop w cancel) = (precheck s).onState (State.withLoop w cancel) := by
  by_cases ok : s.rmStatus = .ok
  · rw [precheck_ok ok, precheck_ok (s := s.withLoop w cancel) ok, setPhase_withLoop]
    rfl
  · rw [precheck_invalid ok, precheck_invalid (s := s.withLoop w cancel) ok]
    rfl

theorem branchPhase_withLoop : branchPhase (s.withLoop w cancel) = (branchPhase s).withLoop w cancel := by
  have dir : (s.withLoop w cancel).curDir = s.curDir := rfl
  simp only [branchPhase, dir]
  cases s.curDir <;> exact setPhase_withLoop ..

/-- No action of a transaction depends on the worker's place or on its cancel flag, or changes them (R255). -/
theorem TxnStage.run_withLoop (st : TxnStage) :
    st.run (s.withLoop w cancel) = (st.run s).onState (State.withLoop w cancel) := by
  have phase (p : Phase) :
      Run.done () (setPhase p (s.withLoop w cancel)) = (Run.done () (setPhase p s)).onState (State.withLoop w cancel) :=
    congrArg (Run.done ()) (setPhase_withLoop w cancel s p)
  cases st with
  | precheck => exact precheck_withLoop w cancel s
  | enterSampled => exact phase .sampled
  | enterSettled => exact phase .settled
  | enterIdle => exact phase .idle
  | branch => exact congrArg (Run.done ()) (branchPhase_withLoop w cancel s)
  | floatBus | readEnable | readClockHigh | readClockLow | writeClockHigh | writeClockLow =>
    exact vecWrite_withLoop ..
  | sample =>
    simp only [TxnStage.run, sampleBus, vecRead_withLoop]
    exact Run.onState_andThen (fun _ _ => rfl) _
  | writeCapture =>
    simp only [TxnStage.run, writeSample, vecRead_withLoop]
    exact Run.onState_andThen (fun _ _ => rfl) _
  | readFetch | writeStore | settle => rfl

theorem releaseGate_withLoop (a : Agent) :
    releaseGate a (s.withLoop w cancel) = (releaseGate a s).withLoop w cancel := by
  by_cases owner : s.gateOwner = a.owner
  · have owner' : (s.withLoop w cancel).gateOwner = a.owner := owner
    rw [releaseGate, releaseGate, if_pos owner, if_pos owner']
    rfl
  · have owner' : (s.withLoop w cancel).gateOwner ≠ a.owner := owner
    rw [releaseGate, releaseGate, if_neg owner, if_neg owner']

theorem abandonTxn_withLoop (a : Agent) : abandonTxn a (s.withLoop w cancel) = (abandonTxn a s).withLoop w cancel := by
  by_cases owner : s.gateOwner = a.owner
  · rw [abandonTxn_owner a s owner, abandonTxn_owner a (s.withLoop w cancel) owner, setPhase_withLoop]
    rfl
  · rw [abandonTxn_other a s owner, abandonTxn_other a (s.withLoop w cancel) owner]

theorem raiseWorker_withLoop (r : Raise) :
    raiseWorker r (s.withLoop w cancel) = (raiseWorker r s).withLoop w cancel :=
  abandonTxn_withLoop w cancel { recordError .freerun r s with frStatus := r.status } .freerun

end WithLoop

/-! ### What is left of a transaction -/

/-- The number of actions of a transaction from this one on, whatever the direction (R200 to R208). -/
def TxnStage.actionsLeft : TxnStage → Nat
  | .precheck => 12
  | .floatBus => 11
  | .enterSampled => 10
  | .sample => 9
  | .branch => 8
  | .readEnable => 7
  | .readFetch => 6
  | .readClockHigh => 5
  | .readClockLow => 4
  | .writeClockHigh => 7
  | .writeCapture => 6
  | .writeStore => 5
  | .writeClockLow => 4
  | .enterSettled => 3
  | .settle => 2
  | .enterIdle => 1

theorem TxnStage.actionsLeft_after {st st' : TxnStage} {dir : Direction} (h : st.after dir = some st') :
    st.actionsLeft = st'.actionsLeft + 1 := by
  cases st with
  | branch => cases dir <;> cases h <;> rfl
  | enterIdle => cases h
  | _ => cases h; rfl

theorem TxnStage.actionsLeft_le (st : TxnStage) : 1 ≤ st.actionsLeft ∧ st.actionsLeft ≤ 12 := by
  cases st <;> decide

/-- The actions of a transaction from this one on, at most `n` of them. -/
def TxnStage.runUpTo : Nat → TxnStage → State → Run Unit
  | 0, _, s => .done () s
  | n + 1, st, s => (st.run s).andThen fun _ t =>
    match st.after t.curDir with
    | some st' => runUpTo n st' t
    | none => .done () t

/-- What is left of a transaction whose next action is this one. -/
def remainder (st : TxnStage) (s : State) : Run Unit := st.runUpTo st.actionsLeft s

theorem Run.andThen_assoc {α β γ : Type} (r : Run α) (f : α → State → Run β) (g : β → State → Run γ) :
    (r.andThen f).andThen g = r.andThen fun a s => (f a s).andThen g := by
  cases r <;> rfl

/-- The branch of a read, and the record (R206, R208). -/
theorem remainder_readEnable (s : State) :
    remainder .readEnable s =
      (readDrive s).andThen fun _ t => .done () (setPhase .idle (settleRecord (setPhase .settled t))) := by
  simp only [readDrive, Run.andThen_assoc]
  rfl

/-- The branch of a write, and the record (R207, R208). -/
theorem remainder_writeClockHigh (s : State) :
    remainder .writeClockHigh s =
      (writeCapture s).andThen fun _ t => .done () (setPhase .idle (settleRecord (setPhase .settled t))) := by
  simp only [writeCapture, Run.andThen_assoc]
  rfl

/-- After an action that completed, what is left is what is left from the next. -/
theorem remainder_next {st st' : TxnStage} {s t : State} (ran : st.run s = .done () t)
    (next : st.after t.curDir = some st') : remainder st s = remainder st' t := by
  rw [remainder, remainder, TxnStage.actionsLeft_after next, TxnStage.runUpTo, ran, Run.andThen_done, next]

/-- The branch on the direction latched (R205). -/
theorem remainder_branch (s : State) : remainder .branch s = conclude s := by
  cases dir : s.curDir with
  | read =>
    have next : TxnStage.branch.after (branchPhase s).curDir = some .readEnable := by rw [branchPhase_curDir, dir]; rfl
    rw [remainder_next rfl next, remainder_readEnable, conclude, dir]
  | write =>
    have next : TxnStage.branch.after (branchPhase s).curDir = some .writeClockHigh := by
      rw [branchPhase_curDir, dir]; rfl
    rw [remainder_next rfl next, remainder_writeClockHigh, conclude, dir]

/-- From its first action on, the worker's transaction is the body of `BUS_CYCLE` (R200, R253). -/
theorem remainder_precheck (s : State) : remainder .precheck s = transaction s := by
  rw [transaction_eq]
  simp only [← remainder_branch]
  rfl

theorem vecRead_frame (s : State) : TxnFrame s (vecRead s).state := by
  rcases vecRead_cases s with ⟨k, _, t, hd, _, h⟩ | ⟨I, t, hd, _, h⟩ <;> rw [h] <;> exact hd.txnFrame

theorem TxnStage.runUpTo_frame (n : Nat) (st : TxnStage) (s : State) : TxnFrame s (st.runUpTo n s).state := by
  induction n generalizing st s with
  | zero => exact TxnFrame.refl s
  | succ n ih =>
    have head := st.run_frame s
    simp only [TxnStage.runUpTo]
    cases ran : st.run s with
    | error e t =>
      rw [ran] at head
      exact head
    | done a t =>
      rw [ran] at head
      rw [Run.andThen_done]
      split
      · exact head.trans (ih _ t)
      · exact head

/-- Whatever is left of a transaction, it keeps the frame. -/
theorem remainder_frame (st : TxnStage) (s : State) : TxnFrame s (remainder st s).state := st.runUpTo_frame _ s

theorem transaction_frame (s : State) : TxnFrame s (transaction s).state :=
  remainder_precheck s ▸ remainder_frame .precheck s

/-- Where a worker's transaction leaves the worker: about to release the gate, or about to stop (R253, R256). -/
def workerEnded : Run Unit → State
  | .done _ t => { t with frStage := .release }
  | .error e t => { raiseWorker e t with frStage := .stopping }

/-- The worker's place after an action of its transaction that completed. -/
def TxnStage.nextPlace (st : TxnStage) (dir : Direction) : WorkerStage :=
  match st.after dir with
  | some st' => .txn st'
  | none => .release

theorem workerAfter_done (st : TxnStage) (u : Unit) (t : State) :
    workerAfter st (.done u t) = { t with frStage := st.nextPlace t.curDir } := by
  simp only [workerAfter, TxnStage.nextPlace]
  cases st.after t.curDir <;> rfl

/-- An action of the worker's transaction overwrites the worker's place and leaves the cancel flag. -/
theorem workerAfter_withLoop (st : TxnStage) (r : Run Unit) (w : WorkerStage) (cancel : Bool) :
    workerAfter st (r.onState (State.withLoop w cancel)) = { workerAfter st r with frCancel := cancel } := by
  cases r with
  | done a t =>
    simp only [Run.onState, workerAfter_done]
    rfl
  | error e t =>
    simp only [Run.onState, workerAfter, raiseWorker_withLoop]
    rfl

/-- The mode and the registers of the worker's loop are as before. -/
structure SameLoop (s t : State) : Prop where
  mode : t.mode = s.mode
  stage : t.frStage = s.frStage
  running : t.frRunning = s.frRunning
  cancel : t.frCancel = s.frCancel

theorem TxnFrame.sameLoop {s t : State} (h : TxnFrame s t) : SameLoop s t := by
  rw [h]
  exact ⟨rfl, rfl, rfl, rfl⟩

theorem TxnFrame.gateOwner {s t : State} (h : TxnFrame s t) : t.gateOwner = s.gateOwner := by rw [h]

theorem raiseWorker_frCancel (r : Raise) (s : State) : (raiseWorker r s).frCancel = s.frCancel := by
  simp [raiseWorker]

theorem workerAfter_frCancel (st : TxnStage) (r : Run Unit) : (workerAfter st r).frCancel = r.state.frCancel := by
  cases r with
  | done a t => rw [workerAfter_done]; rfl
  | error e t => exact raiseWorker_frCancel e t

/-- An action of the worker's transaction does what the action does, wherever the worker was before (R253). -/
theorem workerStep_atTxn (st : TxnStage) (s : State) :
    workerStep { s with frStage := .txn st } = workerAfter st (st.run s) := by
  have moved : st.run (s.withLoop (.txn st) s.frCancel) = (st.run s).onState (State.withLoop (.txn st) s.frCancel) :=
    st.run_withLoop (.txn st) s.frCancel s
  have kept : (workerAfter st (st.run s)).frCancel = s.frCancel :=
    (workerAfter_frCancel st _).trans (st.run_frame s).sameLoop.cancel
  calc workerStep (s.withLoop (.txn st) s.frCancel)
      = workerAfter st (st.run (s.withLoop (.txn st) s.frCancel)) := rfl
    _ = { workerAfter st (st.run s) with frCancel := s.frCancel } := by rw [moved, workerAfter_withLoop]
    _ = workerAfter st (st.run s) := by rw [← kept]

/-- The worker does what is left of its transaction, one action at a time (R253). -/
theorem workerRun_runUpTo (n : Nat) (st : TxnStage) (s : State) (enough : st.actionsLeft ≤ n) :
    ∃ m, m ≤ n ∧ workerRun m { s with frStage := .txn st } = workerEnded (st.runUpTo n s) := by
  induction n generalizing st s with
  | zero =>
    obtain ⟨positive, _⟩ := st.actionsLeft_le
    omega
  | succ n ih =>
    have head := workerStep_atTxn st s
    simp only [TxnStage.runUpTo]
    cases ran : st.run s with
    | error e t => exact ⟨1, by omega, head.trans (congrArg (workerAfter st) ran)⟩
    | done a t =>
      rw [ran, workerAfter_done, TxnStage.nextPlace] at head
      rw [Run.andThen_done]
      cases next : st.after t.curDir with
      | none =>
        rw [next] at head
        exact ⟨1, by omega, head⟩
      | some st' =>
        rw [next] at head
        have shorter := st.actionsLeft_after next
        obtain ⟨m, bound, run⟩ := ih st' t (by omega)
        exact ⟨m + 1, by omega, by rw [workerRun, head, run]⟩

theorem workerRun_remainder (st : TxnStage) (s : State) :
    ∃ m, m ≤ st.actionsLeft ∧ workerRun m { s with frStage := .txn st } = workerEnded (remainder st s) :=
  workerRun_runUpTo _ st s le_rfl

end Sys2Proof.Machine

/-! ## The arbitration of the gate

Between steps the gate is the worker's or nobody's (R34, R250). A host command that takes the gate gives it back within
its step, in `Idle`; every other leaves the gate, the phase and the latched direction; the worker's actions go from
place to place, each with its phase. -/

namespace Sys2Proof.Machine

/-! ### The invariant -/

/-- The parts of `arbitrated`. -/
structure Arbitrated (s : State) : Prop where
  gate : s.gateOwner = if s.frStage.holdsGate then .freerun else .free
  phase : s.phase = s.frStage.phase s.curDir
  direction : s.frStage.fitsDirection s.curDir = true
  stopped : s.frRunning = false → s.frStage = .boundary ∧ s.frCancel = false
  failed : s.mode = .failed → s.frRunning = false

theorem arbitrated_iff {s : State} : arbitrated s = true ↔ Arbitrated s := by
  have parts : arbitrated s = true ↔
      (s.gateOwner = if s.frStage.holdsGate then .freerun else .free) ∧ s.phase = s.frStage.phase s.curDir ∧
      s.frStage.fitsDirection s.curDir = true ∧
      (s.frRunning = false → s.frStage = .boundary ∧ s.frCancel = false) ∧
      (s.mode = .failed → s.frRunning = false) := by
    cases hr : s.frRunning <;> cases hm : s.mode <;> simp [arbitrated, hr, hm, and_assoc]
  rw [parts]
  exact ⟨fun ⟨gate, phase, direction, stopped, failed⟩ => ⟨gate, phase, direction, stopped, failed⟩,
    fun ⟨gate, phase, direction, stopped, failed⟩ => ⟨gate, phase, direction, stopped, failed⟩⟩

/-- A worker outside its hold of the gate fits either direction. -/
theorem WorkerStage.fitsDirection_of_not_holdsGate {w : WorkerStage} (h : w.holdsGate = false) (dir : Direction) :
    w.fitsDirection dir = true := by
  cases w with
  | txn st => exact absurd h nofun
  | boundary => rfl
  | acquire => rfl
  | release => rfl
  | report => rfl
  | stopping => rfl

theorem Arbitrated.of_outside {s : State} (outside : s.frStage.holdsGate = false) (gate : s.gateOwner = .free)
    (idle : s.phase = .idle) (stopped : s.frRunning = false → s.frStage = .boundary ∧ s.frCancel = false)
    (failed : s.mode = .failed → s.frRunning = false) : Arbitrated s where
  gate := by rw [outside, gate]; rfl
  phase := idle.trans (WorkerStage.phase_of_not_holdsGate outside _).symm
  direction := WorkerStage.fitsDirection_of_not_holdsGate outside _
  stopped := stopped
  failed := failed

namespace Arbitrated

variable {s t : State}

/-- While the gate is free the worker is outside its hold. -/
theorem outside_of_free (hs : Arbitrated s) (free : s.gateOwner = .free) : s.frStage.holdsGate = false := by
  have gate := hs.gate
  rw [free] at gate
  cases hold : s.frStage.holdsGate with
  | true => simp [hold] at gate
  | false => rfl

theorem gate_of_outside (hs : Arbitrated s) (outside : s.frStage.holdsGate = false) : s.gateOwner = .free := by
  simpa [outside] using hs.gate

theorem gate_of_holds (hs : Arbitrated s) (holds : s.frStage.holdsGate = true) : s.gateOwner = .freerun := by
  simpa [holds] using hs.gate

theorem idle_of_outside (hs : Arbitrated s) (outside : s.frStage.holdsGate = false) : s.phase = .idle :=
  hs.phase.trans (WorkerStage.phase_of_not_holdsGate outside _)

theorem gate_ne_host (hs : Arbitrated s) : s.gateOwner ≠ .host := by
  rw [hs.gate]
  split <;> nofun

/-- What touches neither the gate nor the sequencer nor the worker keeps the invariant. -/
theorem congr (hs : Arbitrated s) (loop : SameLoop s t) (gate : t.gateOwner = s.gateOwner) (phase : t.phase = s.phase)
    (dir : t.curDir = s.curDir) : Arbitrated t where
  gate := by rw [gate, loop.stage, hs.gate]
  phase := by rw [phase, loop.stage, dir, hs.phase]
  direction := by rw [loop.stage, dir, hs.direction]
  stopped := by rw [loop.running, loop.stage, loop.cancel]; exact hs.stopped
  failed := by rw [loop.running, loop.mode]; exact hs.failed

/-- A hold of the free gate that ends in `Idle` keeps the invariant, whatever direction it latched. -/
theorem afterHold (hs : Arbitrated s) (free : s.gateOwner = .free) (loop : SameLoop s t) (gate : t.gateOwner = .free)
    (idle : t.phase = .idle) : Arbitrated t := by
  refine of_outside ?_ gate idle ?_ ?_
  · rw [loop.stage]
    exact hs.outside_of_free free
  · rw [loop.running, loop.stage, loop.cancel]
    exact hs.stopped
  · rw [loop.running, loop.mode]
    exact hs.failed

/-! ### Commands -/

theorem respond (hs : Arbitrated s) (b : List Byte) : Arbitrated (respond b s) :=
  hs.congr ⟨rfl, rfl, rfl, rfl⟩ rfl rfl rfl

theorem complete (hs : Arbitrated s) (result : List Byte) : Arbitrated (complete result s) :=
  hs.congr ⟨rfl, rfl, rfl, rfl⟩ rfl rfl rfl

/-- A host error outside a hold of the host's leaves the worker's transaction (R285, notes/assumptions/9.md). -/
theorem raiseHost (hs : Arbitrated s) (r : Raise) : Arbitrated (raiseHost r s) := by
  have other : ({ recordError .host r s with lastStatus := r.status } : State).gateOwner ≠ Agent.host.owner :=
    hs.gate_ne_host
  rw [Machine.raiseHost, abandonTxn_other _ _ other]
  exact hs.congr ⟨rfl, rfl, rfl, rfl⟩ rfl rfl rfl

theorem raiseIllegal (hs : Arbitrated s) : Arbitrated (raiseIllegal s) := by
  cases mode : s.mode with
  | ready =>
    rw [raiseIllegal_ready mode]
    exact hs.raiseHost illegalCommand
  | failed =>
    rw [raiseIllegal_failed mode]
    exact hs.respond _

theorem whenReady (hs : Arbitrated s) {body : State → State} (h : s.mode = .ready → Arbitrated (body s)) :
    Arbitrated (whenReady s body) := by
  rcases whenReady_cases s body with ⟨ready, hw⟩ | ⟨_, hw⟩ <;> rw [hw]
  · exact h ready
  · exact hs.respond _

/-- A gate command keeps the invariant if its operation keeps a transaction's frame and completes in `Idle`. -/
theorem gateCommand {α : Type} {op : State → Run α} {result : α → State → List Byte} (hs : Arbitrated s)
    (frame : ∀ u, TxnFrame u (op u).state)
    (idle : ∀ u a t, u.phase = .idle → op u = .done a t → t.phase = .idle) :
    Arbitrated (gateCommand op result s) := by
  refine hs.whenReady fun _ => ?_
  have ran := frame { s with gateOwner := .host }
  rcases withGate_cases s _ with ⟨_, hw⟩ | ⟨free, bytes, t, hb, hw⟩ | ⟨free, e, t, hb, hw⟩ <;> rw [hw]
  · exact hs
  · obtain ⟨a, u, hop, hdone⟩ := Run.andThen_eq_done hb
    cases hdone
    rw [hop, Run.state_done] at ran
    obtain ⟨mode, stage, running, cancel⟩ := ran.sameLoop
    have ended := idle { s with gateOwner := .host } a t (hs.idle_of_outside (hs.outside_of_free free)) hop
    rw [releaseGate_of_owner ran.gateOwner]
    exact hs.afterHold free ⟨mode, stage, running, cancel⟩ rfl ended
  · rcases Run.andThen_eq_error hb with hop | ⟨a, u, _, hdone⟩
    · rw [hop, Run.state_error] at ran
      obtain ⟨mode, stage, running, cancel⟩ := ran.sameLoop
      rw [raiseHost_owner ran.gateOwner]
      exact hs.afterHold free ⟨(setPhase_mode .idle t).trans mode, (setPhase_frStage .idle t).trans stage,
        (setPhase_frRunning .idle t).trans running, (setPhase_frCancel .idle t).trans cancel⟩ rfl
        (setPhase_phase .idle t)
    · cases hdone

/-- A gate command of one vector operation: it stays in `Idle`. -/
theorem vectorCommand {α : Type} {op : State → Run α} {result : α → State → List Byte} (hs : Arbitrated s)
    (frame : ∀ u, TxnFrame u (op u).state) (same : ∀ u, SamePhase u (op u).state) :
    Arbitrated (Machine.gateCommand op result s) := by
  refine hs.gateCommand frame fun u a t idle done => ?_
  have stays := same u
  rw [done] at stays
  exact stays.phase.trans idle

theorem maskedWrite (hs : Arbitrated s) (op : MaskOp) (m : VMask) : Arbitrated (maskedWrite op m s) :=
  hs.vectorCommand (fun _ => vecWrite_frame ..) fun _ => vecWrite_samePhase ..

theorem supplyWrite (hs : Arbitrated s) (p : Prim) : Arbitrated (supplyWrite p s) :=
  hs.vectorCommand (fun u => (issueAll_devRun _ _ u).txnFrame) fun u => (issueAll_devRun _ _ u).samePhase

theorem read (hs : Arbitrated s) :
    Arbitrated (Machine.gateCommand vecRead (fun input t => vmaskBytes t.cfg.nslots input) s) :=
  hs.vectorCommand vecRead_frame vecRead_samePhase

theorem busCycle (hs : Arbitrated s) : Arbitrated (Machine.gateCommand transaction (fun _ t => recordBytes t) s) := by
  refine hs.gateCommand transaction_frame fun u a t idle done => ?_
  have yields := transaction_yields idle
  rw [done] at yields
  obtain ⟨_, completed⟩ := yields
  exact completed.phase

/-- A stopped worker starts at its loop's top; a running one goes on (R252). -/
theorem freeRunStart (hs : Arbitrated s) (ready : s.mode = .ready) :
    Arbitrated (if s.frRunning then s
      else { s with frCancel := false, frStatus := .ok, frRunning := true, frStage := .boundary }) := by
  split
  · exact hs
  · rename_i running
    obtain ⟨top, _⟩ := hs.stopped (by simpa using running)
    have outside : s.frStage.holdsGate = false := by rw [top]; rfl
    exact of_outside rfl (hs.gate_of_outside outside) (hs.idle_of_outside outside) nofun
      fun failed => absurd (ready.symm.trans failed) nofun

theorem freeRunCancel (hs : Arbitrated s) :
    Arbitrated (if s.frRunning then { s with frCancel := true } else s) := by
  split
  · rename_i running
    exact ⟨hs.gate, hs.phase, hs.direction, fun stopped => absurd (running.symm.trans stopped) nofun, hs.failed⟩
  · exact hs

/-- Every command keeps the invariant. -/
theorem exec (hs : Arbitrated s) (i : Instr) (h : exec i s = .next t) : Arbitrated t := by
  cases i <;> cases h
  case resolve vpin =>
    refine hs.whenReady fun _ => ?_
    split
    · exact hs.raiseHost _
    · exact hs.complete _
  case pinsForSlot slot =>
    split
    · exact hs.whenReady fun _ => hs.complete _
    · exact hs.raiseIllegal
  case fanOut m =>
    refine hs.whenReady fun _ => ?_
    split
    · exact hs.raiseHost _
    · exact hs.complete _
  case aggregate I => exact hs.whenReady fun _ => hs.complete _
  case drive m => exact hs.maskedWrite .output m
  case triState m => exact hs.maskedWrite .tristate m
  case read => exact hs.read
  case assignGround m => exact hs.maskedWrite .groundPins m
  case assignSupplyPins m => exact hs.maskedWrite .supplyPins m
  case setSupplyVoltage level => exact hs.supplyWrite (.setSupplyVoltage level.toInt)
  case enableSupply on => exact hs.supplyWrite (.enableSupply on)
  case busCycle => exact hs.busCycle
  case freeRunStart => exact hs.whenReady fun ready => (hs.freeRunStart ready).complete []
  case freeRunCancel => exact hs.whenReady fun _ => hs.freeRunCancel.complete []
  case readReg r => exact hs.respond _

theorem hostStep (hs : Arbitrated s) (h : hostStep s = .next t) : Arbitrated t := by
  unfold Machine.hostStep at h
  split at h
  · cases h
    exact hs
  · exact hs.exec _ h
  · cases h
    exact hs.raiseIllegal

end Arbitrated

/-! ### The worker's actions, place by place -/

section WorkerPlaces

variable {s : State}

theorem workerStep_cancelled (top : s.frStage = .boundary) (cancel : s.frCancel = true) :
    workerStep s = workerStop s := by
  simp only [workerStep, top, cancel, if_true]

theorem workerStep_boundary (top : s.frStage = .boundary) (cancel : s.frCancel = false) :
    workerStep s = { s with frStage := .acquire } := by
  simp only [workerStep, top, cancel, Bool.false_eq_true, if_false]

theorem workerStep_acquire (waiting : s.frStage = .acquire) (free : s.gateOwner = .free) :
    workerStep s = { s with gateOwner := .freerun, frStage := .txn .precheck } := by
  simp only [workerStep, waiting, free]

theorem workerStep_waits (waiting : s.frStage = .acquire) (taken : s.gateOwner ≠ .free) : workerStep s = s := by
  simp only [workerStep, waiting]
  split
  · exact absurd ‹_› taken
  · rfl
  · rfl

theorem workerStep_txn {st : TxnStage} (place : s.frStage = .txn st) : workerStep s = workerAfter st (st.run s) := by
  simp only [workerStep, place]

theorem workerStep_releaseGate (place : s.frStage = .release) :
    workerStep s = { releaseGate .freerun s with frStage := .report } := by
  simp only [workerStep, place]

theorem workerStep_release (place : s.frStage = .release) (gate : s.gateOwner = .freerun) :
    workerStep s = { s with gateOwner := .free, frStage := .report } := by
  have released : releaseGate .freerun s = { s with gateOwner := .free } := if_pos gate
  rw [workerStep_releaseGate place, released]

theorem workerStep_report (place : s.frStage = .report) :
    workerStep s = { s with frStatus := .ok, frStage := .boundary } := by
  simp only [workerStep, place]

theorem workerStep_stopping (place : s.frStage = .stopping) : workerStep s = workerStop s := by
  simp only [workerStep, place]

end WorkerPlaces

/-- The raise of the worker that holds the gate: the phase goes to `Idle` and the gate is free (R256, R285). -/
theorem raiseWorker_owner {r : Raise} {t : State} (gate : t.gateOwner = .freerun) :
    raiseWorker r t =
      { setPhase .idle t with
        gateOwner := .free, frStatus := r.status, errPin := r.pin, errSlot := r.slot, errPrim := r.prim,
        errSrc := 0x01#8, busUnknown := t.busUnknown || decide (r.status = .transportError) } := by
  have owner : ({ recordError .freerun r t with frStatus := r.status } : State).gateOwner = Agent.freerun.owner := gate
  rw [raiseWorker, abandonTxn_owner _ _ owner]
  by_cases idle : t.phase = .idle
  · have recorded : ({ recordError .freerun r t with frStatus := r.status } : State).phase = .idle := idle
    rw [setPhase_same .idle t idle, setPhase_same .idle _ recorded]
    rfl
  · have recorded : ({ recordError .freerun r t with frStatus := r.status } : State).phase ≠ .idle := idle
    rw [setPhase_change .idle t idle, setPhase_change .idle _ recorded]
    rfl

theorem TxnStage.holdsGate_nextPlace (st : TxnStage) (dir : Direction) : (st.nextPlace dir).holdsGate = true := by
  simp only [TxnStage.nextPlace]
  split <;> rfl

/-- The phase and the latched direction are those of this place of the worker (R201, R205). -/
def WorkerStage.Fits (w : WorkerStage) (s : State) : Prop :=
  s.phase = w.phase s.curDir ∧ w.fitsDirection s.curDir = true

/-- An operation within a phase leads to the next place if the table of R201 has the same phase there. -/
theorem TxnStage.nextPlace_fits_of_same {st : TxnStage} {s t : State} (fits : (WorkerStage.txn st).Fits s)
    (same : t.phase = s.phase ∧ t.curDir = s.curDir)
    (place : ∀ d, st.fitsDirection d = true →
      (st.nextPlace d).phase d = st.phase d ∧ (st.nextPlace d).fitsDirection d = true) :
    (st.nextPlace t.curDir).Fits t := by
  obtain ⟨found, fitsDir⟩ := fits
  obtain ⟨phase, dir⟩ := same
  obtain ⟨samePhase, fitsNext⟩ := place s.curDir fitsDir
  rw [WorkerStage.Fits, dir, phase, samePhase]
  exact ⟨found, fitsNext⟩

theorem vecWrite_done_same {op : MaskOp} {m : VMask} {order : List Nat} {s t : State} {u : Unit}
    (perm : order.Perm s.cfg.boundSlots) (done : vecWrite op m order s = .done u t) :
    t.phase = s.phase ∧ t.curDir = s.curDir := by
  have same := vecWrite_samePhase op m order s
  rw [done] at same
  obtain ⟨latches, _⟩ := vecWrite_done perm done
  exact ⟨same.phase, latches.curDir⟩

/-- An action that finds the phase and the direction of its place leaves those of the next (R201, R205). -/
theorem TxnStage.run_done_fits {st : TxnStage} {s t : State} {u : Unit} (fits : (WorkerStage.txn st).Fits s)
    (done : st.run s = .done u t) : (st.nextPlace t.curDir).Fits t := by
  cases st with
  | precheck =>
    by_cases ok : s.rmStatus = .ok
    · cases (precheck_ok ok).symm.trans done
      exact ⟨setPhase_phase .floating s, rfl⟩
    · cases (precheck_invalid ok).symm.trans done
  | enterSampled =>
    cases done
    exact ⟨setPhase_phase .sampled s, rfl⟩
  | sample =>
    have same := sampleBus_samePhase s
    have sampled : sampleBus s = .done u t := done
    rw [sampled] at same
    exact ⟨same.phase.trans fits.1, rfl⟩
  | branch =>
    cases done
    rw [branchPhase_curDir, branchPhase]
    cases dir : s.curDir with
    | read => exact ⟨setPhase_phase .readDrive s, by rw [setPhase_curDir, dir]; rfl⟩
    | write => exact ⟨setPhase_phase .writeCapture s, by rw [setPhase_curDir, dir]; rfl⟩
  | floatBus | readEnable =>
    have same := vecWrite_done_same (List.Perm.refl _) done
    exact nextPlace_fits_of_same fits same fun d => by cases d <;> decide
  | readClockHigh | readClockLow | writeClockHigh | writeClockLow =>
    have same := vecWrite_done_same (clockLastSlots_perm s.cfg) done
    exact nextPlace_fits_of_same fits same fun d => by cases d <;> decide
  | writeCapture =>
    have same := writeSample_samePhase s
    have sampled : writeSample s = .done u t := done
    rw [sampled] at same
    obtain ⟨_, _, dir⟩ := writeSample_done sampled
    exact nextPlace_fits_of_same fits ⟨same.phase, dir⟩ fun d => by cases d <;> decide
  | readFetch | writeStore | settle =>
    cases done
    exact nextPlace_fits_of_same fits ⟨rfl, rfl⟩ fun d => by cases d <;> decide
  | enterSettled =>
    cases done
    exact ⟨setPhase_phase .settled s, rfl⟩
  | enterIdle =>
    cases done
    exact ⟨setPhase_phase .idle s, rfl⟩

namespace Arbitrated

variable {s t : State}

/-- An action of the worker's transaction leads to the next place of its hold, or out of it by the raise (R256). -/
theorem workerAfter (hs : Arbitrated s) (running : s.frRunning = true) {st : TxnStage} (place : s.frStage = .txn st) :
    Arbitrated (workerAfter st (st.run s)) := by
  have gate := hs.gate_of_holds (by rw [place]; rfl)
  have fits : (WorkerStage.txn st).Fits s := ⟨place ▸ hs.phase, place ▸ hs.direction⟩
  have ran := st.run_frame s
  cases outcome : st.run s with
  | done u t =>
    rw [outcome, Run.state_done] at ran
    obtain ⟨mode, _, still, _⟩ := ran.sameLoop
    obtain ⟨phase, direction⟩ := TxnStage.run_done_fits fits outcome
    rw [workerAfter_done]
    refine ⟨?_, phase, direction, fun stopped => ?_, fun failed => ?_⟩
    · rw [st.holdsGate_nextPlace]
      exact ran.gateOwner.trans gate
    · exact absurd ((still.trans running).symm.trans stopped) nofun
    · exact still.trans (hs.failed (mode.symm.trans failed))
  | error e t =>
    rw [outcome, Run.state_error] at ran
    obtain ⟨mode, _, still, _⟩ := ran.sameLoop
    simp only [Machine.workerAfter]
    rw [raiseWorker_owner (ran.gateOwner.trans gate)]
    refine of_outside rfl rfl (setPhase_phase .idle t) (fun stopped => ?_) fun failed => ?_
    · exact absurd (((setPhase_frRunning .idle t).trans (still.trans running)).symm.trans stopped) nofun
    · exact (setPhase_frRunning .idle t).trans
        (still.trans (hs.failed (mode.symm.trans ((setPhase_mode .idle t).symm.trans failed))))

/-- Every action of a running worker keeps the invariant. -/
theorem workerStep (hs : Arbitrated s) (running : s.frRunning = true) : Arbitrated (workerStep s) := by
  have goesOn {P : Prop} (stopped : s.frRunning = false) : P := absurd (running.symm.trans stopped) nofun
  have leaves {w : WorkerStage} (place : s.frStage = w) (outside : w.holdsGate = false) :
      s.gateOwner = .free ∧ s.phase = .idle := by
    rw [← place] at outside
    exact ⟨hs.gate_of_outside outside, hs.idle_of_outside outside⟩
  cases place : s.frStage with
  | boundary =>
    obtain ⟨free, idle⟩ := leaves place rfl
    cases cancel : s.frCancel with
    | true =>
      rw [workerStep_cancelled place cancel]
      exact of_outside rfl free idle (fun _ => ⟨rfl, rfl⟩) fun _ => rfl
    | false =>
      rw [workerStep_boundary place cancel]
      exact of_outside rfl free idle goesOn hs.failed
  | acquire =>
    obtain ⟨free, idle⟩ := leaves place rfl
    rw [workerStep_acquire place free]
    exact ⟨rfl, idle, rfl, goesOn, hs.failed⟩
  | txn st =>
    rw [workerStep_txn place]
    exact hs.workerAfter running place
  | release =>
    have idle : s.phase = .idle := by rw [hs.phase, place]; rfl
    rw [workerStep_release place (hs.gate_of_holds (by rw [place]; rfl))]
    exact of_outside rfl rfl idle goesOn hs.failed
  | report =>
    obtain ⟨free, idle⟩ := leaves place rfl
    rw [workerStep_report place]
    exact of_outside rfl free idle goesOn hs.failed
  | stopping =>
    obtain ⟨free, idle⟩ := leaves place rfl
    rw [workerStep_stopping place]
    exact of_outside rfl free idle (fun _ => ⟨rfl, rfl⟩) fun _ => rfl

end Arbitrated

/-- Settles O52: a host command keeps the invariant by what it leaves of the gate and the phase, a worker's action by
the place it leads to; a worker that can move runs. -/
theorem arbitrationKept : Obligations.ArbitrationKept := by
  intro s t before h
  have hs := arbitrated_iff.mp before
  refine arbitrated_iff.mpr ?_
  have drawn (e : Env) : Arbitrated { s with env := e } := hs.congr ⟨rfl, rfl, rfl, rfl⟩ rfl rfl rfl
  rcases step_cases s with ⟨_, _, hstep⟩ | ⟨_, e, hstep⟩ | ⟨ready, e, hstep⟩ <;> rw [hstep] at h
  · cases h
    exact hs
  · exact (drawn e).hostStep h
  · cases h
    obtain ⟨running, _⟩ := workerReady_iff.mp ready
    exact (drawn e).workerStep running

end Sys2Proof.Machine

/-! ## Free-run

While the worker holds the gate a gate command waits; a free gate goes to whichever agent the schedule names (R250,
R251, R258). The worker reads its cancel flag at the top of its loop only; between, it does one transaction, and leaves
the host port and the supplies alone (R253, R255, R291). -/

namespace Sys2Proof.Machine

/-! ### A held command (R250, R251) -/

theorem gateCommand_held {α : Type} {op : State → Run α} {result : α → State → List Byte} {s : State}
    (ready : s.mode = .ready) (taken : s.gateOwner = .freerun) : gateCommand op result s = s := by
  simp only [gateCommand, whenReady_ready ready, withGate, taken]

/-- Settles O37: the commands that take the gate are the gate commands of one operation, and these are held. -/
theorem gateCommandIsHeld : Obligations.GateCommandIsHeld := by
  intro i s gated ready taken
  have vector (op : MaskOp) (m : VMask) : maskedWrite op m s = s :=
    (maskedWrite_eq_gateCommand op m s).trans (gateCommand_held ready taken)
  have supply (p : Prim) : supplyWrite p s = s :=
    (supplyWrite_eq_gateCommand p s).trans (gateCommand_held ready taken)
  cases i with
  | resolve | pinsForSlot | fanOut | aggregate | freeRunStart | freeRunCancel | readReg => cases gated
  | drive m => exact congrArg _ (vector .output m)
  | triState m => exact congrArg _ (vector .tristate m)
  | read => exact congrArg _ (gateCommand_held ready taken)
  | assignGround m => exact congrArg _ (vector .groundPins m)
  | assignSupplyPins m => exact congrArg _ (vector .supplyPins m)
  | setSupplyVoltage level => exact congrArg _ (supply (.setSupplyVoltage level.toInt))
  | enableSupply on => exact congrArg _ (supply (.enableSupply on))
  | busCycle => exact congrArg _ (gateCommand_held ready taken)

/-! ### The grant (R258) -/

/-- Settles O38: both agents can move, so the schedule names the one that does. -/
theorem grantOrderIsOpen : Obligations.GrantOrderIsOpen := by
  intro s i rest decoded gated ready free running waiting after
  have host : hostReady s = true := hostReady_iff.mpr ⟨_, decoded, fun _ _ _ => .inr free⟩
  have worker : workerReady s = true := workerReady_iff.mpr ⟨running, fun _ => free⟩
  refine ⟨fun schedule => ?_, fun schedule => ?_⟩
  · rw [step_scheduled_freerun host worker schedule, workerStep_acquire (s := s.scheduled rest) waiting free]
    rfl
  · rw [step_scheduled_host host worker schedule]
    exact hostStep_ok decoded

/-! ### Free-run control (R252, R254) -/

/-- Settles O39: the effect of each command is chosen by `FR_RUNNING` alone. -/
theorem freeRunControlCompletes : Obligations.FreeRunControlCompletes := by
  intro s ready
  have start : exec .freeRunStart s = .next (complete [] (if s.frRunning then s
      else { s with frCancel := false, frStatus := .ok, frRunning := true, frStage := .boundary })) :=
    congrArg _ (whenReady_ready ready _)
  have cancel : exec .freeRunCancel s = .next (complete []
      (if s.frRunning then { s with frCancel := true } else s)) :=
    congrArg _ (whenReady_ready ready _)
  rw [start, cancel]
  refine ⟨fun stopped => ?_, fun running => ?_, fun running => ?_, fun stopped => ?_⟩
  · rw [stopped]; rfl
  · rw [running]; rfl
  · rw [running]; rfl
  · rw [stopped]; rfl

/-! ### The worker's loop (R253, R255) -/

/-- Settles O41: the worker's actions at these places, one after another. -/
theorem workerLoopBoundary : Obligations.WorkerLoopBoundary := by
  intro s
  refine ⟨fun top cancel => ?_, workerStep_boundary, fun place gate => ?_⟩
  · rw [workerStep_cancelled top cancel, workerStop, top]
  · show workerStep (workerStep s) = _
    rw [workerStep_release place gate, workerStep_report rfl]

/-- Settles O42: an action of a transaction does not read the flag, and the other places do not either. -/
theorem cancelReadOnlyAtBoundary : Obligations.CancelReadOnlyAtBoundary := by
  intro s cancel notTop notStopping
  have cancelled {w : WorkerStage} (place : s.frStage = w) :
      ({ s with frCancel := cancel } : State) = s.withLoop w cancel := by
    rw [State.withLoop, ← place]
  obtain ⟨w, place⟩ : ∃ w, s.frStage = w := ⟨_, rfl⟩
  cases w with
  | boundary => exact absurd place notTop
  | stopping => exact absurd place notStopping
  | acquire =>
    by_cases free : s.gateOwner = .free
    · rw [workerStep_acquire place free, workerStep_acquire (s := { s with frCancel := cancel }) place free]
    · rw [workerStep_waits place free, workerStep_waits (s := { s with frCancel := cancel }) place free]
  | txn st =>
    rw [workerStep_txn place, workerStep_txn (s := { s with frCancel := cancel }) place, cancelled place,
      st.run_withLoop, workerAfter_withLoop]
  | release =>
    rw [workerStep_releaseGate place, workerStep_releaseGate (s := { s with frCancel := cancel }) place,
      cancelled place, releaseGate_withLoop]
    rfl
  | report => rw [workerStep_report place, workerStep_report (s := { s with frCancel := cancel }) place]

/-! ### A transaction of the worker (R253, R256) -/

theorem workerRun_succ (n : Nat) (s : State) : workerRun (n + 1) s = workerStep (workerRun n s) := by
  induction n generalizing s with
  | zero => rfl
  | succ n ih => exact ih (workerStep s)

/-- Settles O40: the worker takes the gate and does what is left of a transaction from its first action. -/
theorem workerRunsTheTransaction : Obligations.WorkerRunsTheTransaction := by
  intro s waiting free
  obtain ⟨m, bound, run⟩ := workerRun_remainder .precheck { s with gateOwner := .freerun }
  have twelve : TxnStage.precheck.actionsLeft = 12 := rfl
  refine ⟨m + 1, by omega, ?_⟩
  rw [workerRun, workerStep_acquire waiting free]
  refine run.trans ?_
  rw [remainder_precheck]
  rfl

/-- Settles O45: what is left of the transaction takes at most 12 actions; it ends in the worker's raise, which frees
the gate, or one action before the release. -/
theorem gateIsReleased : Obligations.GateIsReleased := by
  intro s before holds
  have gate := (arbitrated_iff.mp before).gate_of_holds holds
  cases place : s.frStage with
  | boundary | acquire | report | stopping => exact absurd (place ▸ holds) nofun
  | release => exact ⟨1, by omega, congrArg State.gateOwner (workerStep_release place gate)⟩
  | txn st =>
    obtain ⟨_, atMost⟩ := st.actionsLeft_le
    obtain ⟨m, bound, run⟩ := workerRun_remainder st s
    rw [← place] at run
    have held := (remainder_frame st s).gateOwner.trans gate
    cases ended : remainder st s with
    | error e t =>
      rw [ended] at run
      rw [ended, Run.state_error] at held
      have freed : (workerEnded (.error e t)).gateOwner = .free := by rw [workerEnded, raiseWorker_owner held]
      exact ⟨m, by omega, (congrArg State.gateOwner run).trans freed⟩
    | done u t =>
      rw [ended] at run held
      refine ⟨m + 1, by omega, ?_⟩
      rw [workerRun_succ, run, workerStep_release (s := workerEnded (.done u t)) rfl held]

/-! ### What the worker leaves to the host (R253, R291, R347) -/

/-- `LAST_STATUS`, the host port's queues and the devices' ground and supply settings are as before. -/
structure LeavesHost (s t : State) : Prop where
  lastStatus : t.lastStatus = s.lastStatus
  cmds : t.cmds = s.cmds
  responses : t.responses = s.responses
  supply : SuppliesKept s t

theorem SuppliesKept.of_ports {s t : State} (h : t.ports = s.ports) : SuppliesKept s t := fun _ _ => by
  rw [h]
  exact SameSupply.refl _

theorem Run.OnBus.suppliesKept {α : Type} {s : State} {r : Run α} (h : r.OnBus s) : SuppliesKept s r.state := by
  cases r with
  | done a t =>
    obtain ⟨_, bus, _⟩ := h
    exact bus.supply
  | error e t =>
    obtain ⟨_, _, _, bus, _⟩ := h
    exact bus.supply

theorem vecWrite_suppliesKept (op : MaskOp) (leaves : ∀ m, (op.prim m).LeavesSupply) (m : VMask) {order : List Nat}
    {s : State} (bound : ∀ k ∈ order, s.cfg.isBound k = true) : SuppliesKept s (vecWrite op m order s).state := by
  cases fan : fanOut s.cfg m with
  | ok L => exact (vecWrite_onBus leaves fan bound).suppliesKept
  | error e =>
    simp only [vecWrite, fan]
    exact SuppliesKept.refl s

/-- The primitives of a transaction are `set_output`, `set_tristate` and `read_input` (R203 to R207). -/
theorem TxnStage.run_suppliesKept (st : TxnStage) (s : State) : SuppliesKept s (st.run s).state := by
  have triState (m : VMask) : SuppliesKept s (vecWrite .tristate m s.cfg.boundSlots s).state :=
    vecWrite_suppliesKept .tristate leavesSupply_setTristate m fun k hk => (s.cfg.mem_boundSlots k).mp hk
  have drive (clk : Bool) (v : Option Byte) : SuppliesKept s (driveClock clk v s).state :=
    vecWrite_suppliesKept .output leavesSupply_setOutput _ fun k hk => (mem_clockLastSlots s.cfg k).mp hk
  have read {f : VMask → State → Run Unit} (latch : ∀ input t, (f input t).state.ports = t.ports) :
      SuppliesKept s ((vecRead s).andThen f).state := by
    have kept := (vecRead_onBus s).suppliesKept
    cases ran : vecRead s with
    | error e t => rwa [ran] at kept
    | done input t =>
      rw [ran] at kept
      exact kept.trans (SuppliesKept.of_ports (latch input t))
  cases st with
  | precheck =>
    by_cases ok : s.rmStatus = .ok
    · simp only [TxnStage.run, precheck_ok ok]
      exact SuppliesKept.of_ports (setPhase_ports .floating s)
    · simp only [TxnStage.run, precheck_invalid ok]
      exact SuppliesKept.refl s
  | enterSampled => exact SuppliesKept.of_ports (setPhase_ports .sampled s)
  | enterSettled => exact SuppliesKept.of_ports (setPhase_ports .settled s)
  | enterIdle => exact SuppliesKept.of_ports (setPhase_ports .idle s)
  | branch => exact SuppliesKept.of_ports (branchPhase_ports s)
  | floatBus | readEnable => exact triState _
  | readClockHigh | readClockLow | writeClockHigh | writeClockLow => exact drive _ _
  | sample | writeCapture => exact read fun _ _ => rfl
  | readFetch | writeStore | settle => exact SuppliesKept.of_ports rfl

theorem TxnStage.run_leavesHost (st : TxnStage) (s : State) : LeavesHost s (st.run s).state := by
  have frame := st.run_frame s
  refine ⟨?_, ?_, ?_, st.run_suppliesKept s⟩ <;> rw [frame]

theorem LeavesHost.workerAfter {s : State} (st : TxnStage) {r : Run Unit} (h : LeavesHost s r.state) :
    LeavesHost s (workerAfter st r) := by
  obtain ⟨status, cmds, responses, supply⟩ := h
  cases r with
  | done u t =>
    rw [workerAfter_done]
    exact ⟨status, cmds, responses, supply⟩
  | error e t =>
    have raised : LeavesHost t (raiseWorker e t) := by
      refine ⟨?_, ?_, ?_, SuppliesKept.of_ports ?_⟩ <;> simp [raiseWorker]
    exact ⟨raised.lastStatus.trans status, raised.cmds.trans cmds, raised.responses.trans responses,
      supply.trans raised.supply⟩

theorem workerStep_leavesHost (s : State) : LeavesHost s (workerStep s) := by
  have same : SuppliesKept s s := SuppliesKept.refl s
  unfold workerStep
  cases s.frStage with
  | boundary =>
    dsimp only
    split <;> exact ⟨rfl, rfl, rfl, same⟩
  | acquire => cases s.gateOwner <;> exact ⟨rfl, rfl, rfl, same⟩
  | txn st => exact (st.run_leavesHost s).workerAfter st
  | release =>
    exact ⟨releaseGate_lastStatus _ s, releaseGate_cmds _ s, releaseGate_responses _ s,
      SuppliesKept.of_ports (releaseGate_ports _ s)⟩
  | report | stopping => exact ⟨rfl, rfl, rfl, same⟩

/-- Settles O44: no operation of the worker writes these registers, and its primitives leave the supplies. -/
theorem workerLeavesHostPort : Obligations.WorkerLeavesHostPort := by
  intro s
  obtain ⟨status, cmds, responses, supply⟩ := workerStep_leavesHost s
  exact ⟨status, cmds, responses, supply.conj⟩

end Sys2Proof.Machine

/-! ## A worker transaction that fails

A precheck that fails raises in `Idle`; a primitive that fails raises inside the transaction (R256, R285). In both the
raise frees the gate, and the worker's next action stops it. -/

namespace Sys2Proof.Machine

/-! ### The precheck -/

/-- The worker's raise in `Idle` changes no phase and issues nothing. -/
theorem workerStep_precheck_invalid {s : State} (place : s.frStage = .txn .precheck) (gate : s.gateOwner = .freerun)
    (idle : s.phase = .idle) (invalid : s.rmStatus ≠ .ok) (known : s.rmStatus ≠ .transportError) :
    workerStep s = { s with gateOwner := .free, frStatus := s.rmStatus, errPin := s.rmErrPin, errSlot := s.rmErrSlot,
                            errPrim := 0xFF#8, errSrc := 0x01#8, frStage := .stopping } := by
  rw [workerStep_txn place, TxnStage.run, precheck_invalid invalid, workerAfter, raiseWorker_owner gate,
    setPhase_same .idle s idle]
  simp only [known, decide_false, Bool.or_false]
  rfl

/-! ### A primitive -/

/-- The action stops at slot `k`: `before` primitives completed, and one of this code failed. -/
def Run.StopsAt (s : State) (before k : Nat) (code : Byte) (rest : List Bool) (r : Run Unit) : Prop :=
  ∃ p t, r = .error (transportError k p) t ∧ p.code = code ∧ StoppedAt s t before k p rest

section Stops

variable {s : State} {before after : List Nat} {k : Nat} {rest : List Bool}

theorem vecWrite_stopsAt {op : MaskOp} {m : VMask} {order : List Nat} {code : Byte}
    (codes : ∀ m, (op.prim m).code = code) (translates : ∃ L, fanOut s.cfg m = .ok L)
    (split : order = before ++ k :: after)
    (fails : s.env.transport = List.replicate before.length false ++ true :: rest) :
    (vecWrite op m order s).StopsAt s before.length k code rest := by
  obtain ⟨L, fan⟩ := translates
  obtain ⟨t, raised, stopped⟩ := vecWrite_stops op m L before after k rest s fan fails
  exact ⟨_, t, split ▸ raised, codes _, stopped⟩

theorem vecRead_stopsAt {f : VMask → State → Run Unit} (split : s.cfg.boundSlots = before ++ k :: after)
    (fails : s.env.transport = List.replicate before.length false ++ true :: rest) :
    ((vecRead s).andThen f).StopsAt s before.length k 3#8 rest := by
  obtain ⟨t, raised, stopped⟩ := vecRead_stops before after k rest s split fails
  exact ⟨.readInput, t, by rw [raised, Run.andThen_error], rfl, stopped⟩

/-- Every action that issues primitives stops at the first that fails, if the RoleMap has passed its check (R202). -/
theorem TxnStage.run_stopsAt {st : TxnStage} (passed : checkRoleMap s.cfg = none)
    (split : st.slots s.cfg = before ++ k :: after)
    (fails : s.env.transport = List.replicate before.length false ++ true :: rest) :
    (st.run s).StopsAt s before.length k st.primCode rest := by
  have drive (clk : Bool) (v : Option Byte) (split : clockLastSlots s.cfg = before ++ k :: after) :
      (driveClock clk v s).StopsAt s before.length k 1#8 rest := by
    obtain ⟨_, _, _, usable⟩ := checkRoleMap_eq_none.mp passed
    exact vecWrite_stopsAt (fun _ => rfl) (fanOut_driveMask usable clk v) split fails
  cases st with
  | floatBus => exact vecWrite_stopsAt (fun _ => rfl) (fanOut_floatMask s.cfg) split fails
  | readEnable => exact vecWrite_stopsAt (fun _ => rfl) (fanOut_readTriMask s.cfg) split fails
  | sample | writeCapture => exact vecRead_stopsAt split fails
  | readClockHigh | readClockLow | writeClockHigh | writeClockLow => exact drive _ _ split
  | precheck | enterSampled | branch | readFetch | writeStore | enterSettled | settle | enterIdle =>
    have issuesNone : [] = before ++ k :: after := split
    simp at issuesNone

/-- Inside its transaction's phases the worker's raise of a failed primitive, written out (R285). -/
theorem workerStep_stopped {st : TxnStage} {t : State} {n : Nat} {p : Prim} (place : s.frStage = .txn st)
    (gate : s.gateOwner = .freerun) (busy : s.phase ≠ .idle) (ran : st.run s = .error (transportError k p) t)
    (stopped : StoppedAt s t n k p rest) :
    workerStep s =
      { s with
        phase := .idle, seq := s.seq + 1#32, gateOwner := .free, frStatus := .transportError, errPin := 0#16,
        errSlot := BitVec.ofNat 8 k, errPrim := p.code, errSrc := 0x01#8, busUnknown := true, ports := t.ports,
        trace := t.trace ++ [.phase (s.seq + 1#32) s.phase .idle .freerun], env := t.env, frStage := .stopping } := by
  have frame := stopped.frame
  have held : t.gateOwner = .freerun := by rw [frame, gate]
  have inside : t.phase ≠ .idle := by rw [frame]; exact busy
  rw [workerStep_txn place, ran, workerAfter, raiseWorker_owner held, setPhase_change .idle t inside, held]
  rw [frame]
  simp [transportError]

/-- An action that issues primitives is one of a phase other than `Idle`. -/
theorem TxnStage.phase_ne_idle_of_slots {st : TxnStage} {c : Config} (issues : st.slots c ≠ []) (dir : Direction) :
    st.phase dir ≠ .idle := by
  cases st with
  | precheck => exact absurd rfl issues
  | enterSettled => cases dir <;> nofun
  | _ => nofun

end Stops

/-- Settles O43: the raise of each kind of failure, written out, and then the stop. -/
theorem workerFailureStops : Obligations.WorkerFailureStops := by
  refine ⟨fun s waiting free idle invalid known => ?_, ?_⟩
  · show workerStep (workerStep (workerStep s)) = _
    have raised := workerStep_precheck_invalid (s := { s with gateOwner := .freerun, frStage := .txn .precheck }) rfl
      rfl idle invalid known
    rw [workerStep_acquire waiting free, raised, workerStep_stopping rfl, workerStop, ← free]
  · intro s st before after k rest arb passed place split fails t
    have hs := arbitrated_iff.mp arb
    have gate := hs.gate_of_holds (by rw [place]; rfl)
    have busy : s.phase ≠ .idle := by
      rw [hs.phase, place]
      exact TxnStage.phase_ne_idle_of_slots (c := s.cfg) (by simp [split]) s.curDir
    have running : s.frRunning = true := by
      by_contra stopped
      obtain ⟨top, _⟩ := hs.stopped (by simpa using stopped)
      exact absurd (place.symm.trans top) nofun
    obtain ⟨p, u, ran, code, stopped⟩ := TxnStage.run_stopsAt passed split fails
    have raised : t = _ := workerStep_stopped place gate busy ran stopped
    obtain ⟨evs, trace, count, quiet⟩ := stopped.events
    have stops : workerStep t = workerStop t := workerStep_stopping (by rw [raised])
    rw [stops, raised]
    refine ⟨rfl, rfl, rfl, code, rfl, rfl, rfl, rfl, rfl, rfl, rfl, rfl, rfl, rfl, rfl, rfl, rfl, rfl, stopped.left,
      running, rfl, ⟨evs, p, ?_, count, code, quiet⟩, rfl⟩
    simp [trace]

end Sys2Proof.Machine

/-! ## READ_REG -/

namespace Sys2Proof.Machine

theorem toNat_bit (b : Bool) : (bit b).toNat = b.toNat := by cases b <;> rfl

/-- The flags stand at bits of their own, so the word is their sum (R38). -/
theorem toNat_flagBits (o : Owner) : ∀ u r c l : Bool,
    (bit u ||| bit r <<< 1 ||| bit c <<< 2 ||| bit l <<< 3 ||| o.code <<< 4).toNat =
      u.toNat + 2 * r.toNat + 4 * c.toNat + 8 * l.toNat +
        16 * (if o = .host then 1 else if o = .freerun then 2 else 0) := by
  cases o <;> decide

/-- The bound slots stand at bits of their own. -/
theorem toNat_boundWord (c : Config) : (boundWord c).toNat = (c.boundSlots.map fun k => 2 ^ k).sum := by
  simp only [boundWord, Config.boundSlots, List.filter_cons, List.filter_nil]
  generalize c.isBound 0 = b0
  generalize c.isBound 1 = b1
  generalize c.isBound 2 = b2
  generalize c.isBound 3 = b3
  revert b0 b1 b2 b3
  decide

/-- A register shows its field's number; the three `CFG_*` that are cut to a width are small enough (R38). -/
theorem toNat_regValue (r : Reg) (s : State) (slots : s.cfg.nslots ≤ 4)
    (narrow : s.cfg.roleMap.addressBits.length < 64) : (regValue r s).toNat = regField r s := by
  have widened {n : Nat} (x : BitVec n) (fits : n ≤ 32) : (x.setWidth 32).toNat = x.toNat :=
    BitVec.toNat_setWidth_of_le fits
  have shown {n w : Nat} (fits : w ≤ 32) (small : n < 2 ^ w) : ((BitVec.ofNat w n).setWidth 32).toNat = n := by
    rw [widened _ fits, BitVec.toNat_ofNat, Nat.mod_eq_of_lt small]
  cases r with
  | mode => cases h : s.mode <;> simp [regValue, regField, h, Mode.code]
  | phase => cases h : s.phase <;> simp [regValue, regField, h, Phase.code]
  | flags => exact toNat_flagBits ..
  | lastStatus | frStatus | rmStatus => exact widened _ (by omega)
  | errPin | errSlot | errPrim | errSrc | rmErrPin | rmErrSlot => exact widened _ (by omega)
  | lastValue | curValue => exact widened _ (by omega)
  | lastAddr | curAddr | txnCount | seq | cfgTTri | cfgTClk => rfl
  | lastDir => cases h : s.lastDir <;> simp [regValue, regField, h, Direction.code]
  | curDir => cases h : s.curDir <;> simp [regValue, regField, h, Direction.code]
  | cfgNslots => exact shown (by omega) (by omega)
  | cfgN => exact shown (n := 40 * s.cfg.nslots) (by omega) (by omega)
  | cfgBound => exact toNat_boundWord s.cfg
  | cfgAw => exact shown (by omega) narrow
  | cfgRwReadLevel => exact toNat_bit _

/-- Settles O46: the four bytes are those of the field's number, and the answer is a response only. -/
theorem readRegAnswers : Obligations.ReadRegAnswers := by
  intro r s slots narrow
  have answered : exec (.readReg r) s = .next (respond (0x00#8 :: leBytes 4 (regValue r s).toNat) s) := rfl
  rw [answered, leBytes_four, toNat_regValue r s slots narrow]
  rfl

end Sys2Proof.Machine

/-! ## Errors and the FAILED mode

An error is a command's result, so every step goes on (R280, R293). In `FAILED` mode every command is answered by a
response alone, and the worker, which never starts there, makes no step (R300). -/

namespace Sys2Proof.Machine

/-- Settles O49: a step, and a command, is a chain of elementary updates to a next state. -/
theorem everyStepGoesOn : Obligations.EveryStepGoesOn := by
  refine ⟨fun s => ?_, fun i s => ?_⟩
  · obtain ⟨t, ht, _⟩ := step_reaches s
    exact ⟨t, ht⟩
  · obtain ⟨t, ht, _⟩ := exec_reaches i s
    exact ⟨t, ht⟩

section Failed

variable {s t : State}

/-! ### Commands in FAILED mode -/

/-- In `FAILED` mode a command's body does not run (R300). -/
theorem whenReady_failed (failed : s.mode = .failed) (body : State → State) :
    whenReady s body = respond [s.lastStatus.code] s := by
  simp only [whenReady, failed]

theorem exec_readReg (r : Reg) (s : State) :
    exec (.readReg r) s = .next (respond (0x00#8 :: leBytes 4 (regValue r s).toNat) s) := rfl

/-- Every command but `READ_REG` is under the mode check; only `PINS_FOR_SLOT` has a check before it (R290, R300). -/
theorem exec_failed_refused (failed : s.mode = .failed) {i : Instr} (notRead : ∀ r, i ≠ .readReg r)
    (legal : ∀ slot, i = .pinsForSlot slot → slot.toNat < s.cfg.nslots) :
    exec i s = .next (respond [s.lastStatus.code] s) := by
  cases i with
  | readReg r => exact absurd rfl (notRead r)
  | pinsForSlot slot => simp only [exec, execPinsForSlot, if_pos (legal slot rfl), whenReady_failed failed]
  | _ => exact congrArg _ (whenReady_failed failed _)

/-- Legal or not, a command in `FAILED` mode does no more than respond. -/
theorem exec_failed_responds (failed : s.mode = .failed) (i : Instr) : ∃ b, exec i s = .next (respond b s) := by
  cases i with
  | readReg r => exact ⟨_, exec_readReg r s⟩
  | pinsForSlot slot =>
    by_cases inside : slot.toNat < s.cfg.nslots
    · exact ⟨_, exec_failed_refused failed nofun fun _ same => by cases same; exact inside⟩
    · exact ⟨_, (exec_pinsForSlot_ge (Nat.not_lt.mp inside)).trans (congrArg _ (raiseIllegal_failed failed))⟩
  | _ => exact ⟨_, exec_failed_refused failed nofun nofun⟩

theorem hostStep_failed_responds (failed : s.mode = .failed) (waiting : hostReady s = true) :
    ∃ b, hostStep s = .next (respond b s) := by
  obtain ⟨decoded, hf, _⟩ := hostReady_iff.mp waiting
  cases decoded with
  | ok i =>
    rw [hostStep_ok hf]
    exact exec_failed_responds failed i
  | error e =>
    rw [hostStep_error hf, raiseIllegal_failed failed]
    exact ⟨_, rfl⟩

/-! ### Steps in FAILED mode -/

/-- The worker of a failed block is at rest, outside its hold of the gate. -/
theorem Arbitrated.at_rest_of_failed (hs : Arbitrated s) (failed : s.mode = .failed) :
    s.gateOwner = .free ∧ s.frRunning = false := by
  have stopped := hs.failed failed
  obtain ⟨top, _⟩ := hs.stopped stopped
  exact ⟨hs.gate_of_outside (by rw [top]; rfl), stopped⟩

/-- The worker does not move, and the host port only responds, which is no event. -/
theorem step_failed_trace (failed : s.mode = .failed) (resting : s.frRunning = false) (h : step s = .next t) :
    t.trace = s.trace := by
  have idle : workerReady s = false := by simp only [workerReady, resting, Bool.false_and]
  cases waiting : hostReady s with
  | false =>
    rw [step_idle waiting idle] at h
    cases h
    rfl
  | true =>
    obtain ⟨b, answered⟩ := hostStep_failed_responds failed waiting
    rw [step_host waiting idle, answered] at h
    cases h
    rfl

end Failed

/-- Settles O47: in `FAILED` mode the host port only responds, no update writes `MODE` or `LAST_STATUS`, and the
arbitration, which every step keeps, has the worker at rest. -/
theorem failedModeRefuses : Obligations.FailedModeRefuses := by
  intro s failed
  refine ⟨fun i wf notRead => ?_, fun e undecodable => ?_, fun r => ?_, fun t h => ?_⟩
  · refine exec_failed_refused failed notRead fun slot same => ?_
    subst same
    exact of_decide_eq_true wf
  · rw [hostStep_error undecodable, raiseIllegal_failed failed]
    rfl
  · exact ⟨_, length_leBytes 4 _, exec_readReg r s⟩
  · have fixed := (reaches_of_step h).sameFixed
    have failed' : t.mode = .failed := fixed.mode.trans failed
    refine ⟨failed', fixed.failedStatus failed, fun before => ?_⟩
    obtain ⟨_, resting⟩ := (arbitrated_iff.mp before).at_rest_of_failed failed
    have after := arbitrated_iff.mp (arbitrationKept s t before h)
    exact ⟨step_failed_trace failed resting h, after.at_rest_of_failed failed'⟩

end Sys2Proof.Machine

/-! ## The reset sequence

Step 4 of reset runs through the bound slots up to the first `init()` that fails (R322); when none does, what step 5
leaves in the RoleMap check registers is the check's first error (R323). All that reset logs are `init()` events, which
no counter, memory or port follows (R320, R324). -/

namespace Sys2Proof.Machine

/-! ### The `init()` of the bound slots (R322) -/

/-- Slots whose `init()` completes are logged, and the slots after them go on with the transport's next answers. -/
theorem initSlots_append_quiet {before : List Nat} {e : Env} {rest : List Bool}
    (quiet : e.transport = List.replicate before.length false ++ rest) (after : List Nat) :
    ∃ e', e'.transport = rest ∧ initSlots (before ++ after) e =
      { initSlots after e' with
        events := before.map (fun j => .dev j .init .ok) ++ (initSlots after e').events } := by
  induction before generalizing e with
  | nil => exact ⟨e, quiet, rfl⟩
  | cons j js ih =>
    have drawn := drawTransport_quiet (e := e) (rest := List.replicate js.length false ++ rest) quiet
    obtain ⟨e', left, run⟩ := ih (e := { e with transport := _, draws := e.draws + 1 }) rfl
    refine ⟨e', left, ?_⟩
    rw [List.cons_append, initSlots, drawn]
    simp only [run, List.map_cons, List.cons_append]

theorem initSlots_quiet {slots : List Nat} {e : Env} {rest : List Bool}
    (quiet : e.transport = List.replicate slots.length false ++ rest) :
    (initSlots slots e).failed = none ∧
      (initSlots slots e).events = slots.map fun j => .dev j .init .ok := by
  obtain ⟨e', _, run⟩ := initSlots_append_quiet quiet []
  rw [List.append_nil] at run
  simp [run, initSlots]

theorem initSlots_stops {before : List Nat} {e : Env} {rest : List Bool}
    (stops : e.transport = List.replicate before.length false ++ true :: rest) (k : Nat) (after : List Nat) :
    (initSlots (before ++ k :: after) e).failed = some k ∧
      (initSlots (before ++ k :: after) e).events =
        before.map (fun j => .dev j .init .ok) ++ [.dev k .init .transportError] := by
  obtain ⟨e', left, run⟩ := initSlots_append_quiet stops (k :: after)
  rw [run, initSlots, drawTransport_fails left]
  exact ⟨rfl, rfl⟩

/-! ### The end of reset on a well-formed pin table -/

/-- A failed `init()` ends reset before the RoleMap check (R320, R322). -/
theorem boot_of_init_failed {c : Config} {e : Env} {k : Nat} (wf : registryWf c = true)
    (failed : (initSlots c.boundSlots e).failed = some k) :
    boot c e = bootFailed (initError k) (initSlots c.boundSlots e).events (initSlots c.boundSlots e).env := by
  simp only [boot, constructRegistry_eq_none.mpr wf, failed]

/-- When no `init()` fails reset ends as `bootReady` says but for the RoleMap check registers (R320). -/
theorem boot_of_inits_done {c : Config} {e : Env} (wf : registryWf c = true)
    (done : (initSlots c.boundSlots e).failed = none) :
    ∃ st pin slot, boot c e =
      { bootReady (initSlots c.boundSlots e).events (initSlots c.boundSlots e).env with
        rmStatus := st, rmErrPin := pin, rmErrSlot := slot } := by
  simp only [boot, constructRegistry_eq_none.mpr wf, done]
  cases checkRoleMap c with
  | none => exact ⟨_, _, _, rfl⟩
  | some r => exact ⟨_, _, _, rfl⟩

/-- The mode's record in `READY` holds the RoleMap check of the configuration (R323). -/
theorem roleCheckLatched_of_ready {s : State} (recorded : modeRecorded s = true) (ready : s.mode = .ready) :
    roleCheckLatched s = true := by
  rw [modeRecorded, ready] at recorded
  exact (Bool.and_eq_true_iff.mp recorded).2

/-- Settles O2: no `init()` stops the sequence, so it ends as `bootReady` says, and what the mode records in `READY` is
the latched check. -/
theorem resetEndsReady : Obligations.ResetEndsReady := by
  intro c e rest wf quiet s
  obtain ⟨done, events⟩ := initSlots_quiet quiet
  obtain ⟨st, pin, slot, booted⟩ := boot_of_inits_done wf done
  have ready : s.mode = .ready := congrArg Boot.mode booted
  have trace : s.trace = (initSlots c.boundSlots e).events := congrArg Boot.trace booted
  exact ⟨ready, congrArg Boot.lastStatus booted, congrArg Boot.errPin booted, congrArg Boot.errSlot booted,
    congrArg Boot.errPrim booted, congrArg Boot.errSrc booted, trace.trans events,
    roleCheckLatched_of_ready (resetWith_modeRecorded c e) ready⟩

/-- Settles O4: the sequence stops at the slot's `init()`, and its error is all that reset records. -/
theorem resetFailsAtInit : Obligations.ResetFailsAtInit := by
  intro c e before after k rest wf split stops s
  obtain ⟨failed, events⟩ := initSlots_stops stops k after
  rw [← split] at failed events
  have booted := boot_of_init_failed wf failed
  have trace : s.trace = (initSlots c.boundSlots e).events := congrArg Boot.trace booted
  exact ⟨congrArg Boot.mode booted, congrArg Boot.lastStatus booted, congrArg Boot.errPin booted,
    congrArg Boot.errSlot booted, congrArg Boot.errPrim booted, congrArg Boot.errSrc booted, trace.trans events⟩

/-! ### The first error of the RoleMap check (R323) -/

/-- A pin that repeats one of a list without repeats is the first to repeat. -/
theorem firstRepeat_of_repeated {before seen : List VPin} {p : VPin} (nodup : before.Nodup)
    (fresh : ∀ q ∈ before, q ∉ seen) (repeated : p ∈ before ∨ p ∈ seen) (after : List VPin) :
    firstRepeat seen (before ++ p :: after) = some p := by
  induction before generalizing seen with
  | nil =>
    have again : p ∈ seen := repeated.resolve_left List.not_mem_nil
    simp [firstRepeat, again]
  | cons q qs ih =>
    obtain ⟨notLater, nodup⟩ := List.nodup_cons.mp nodup
    obtain ⟨new, fresh⟩ := List.forall_mem_cons.mp fresh
    have skip : firstRepeat seen (q :: qs ++ p :: after) = firstRepeat (q :: seen) (qs ++ p :: after) := by
      simp [firstRepeat, new]
    rw [skip]
    refine ih nodup (fun x hx => ?_) ?_
    · have other : x ≠ q := ne_of_mem_of_not_mem hx notLater
      simp [other, fresh x hx]
    · simpa [or_assoc, or_left_comm] using repeated

/-- The first pin with a fault decides the error of a list. -/
theorem firstUnusable_of_fault {c : Config} {before : List VPin} {p : VPin} {r : Raise}
    (usable : ∀ q ∈ before, pinFault c q = none) (fault : pinFault c p = some r) (after : List VPin) :
    firstUnusable c (before ++ p :: after) = some r := by
  induction before with
  | nil => rw [List.nil_append, firstUnusable_cons, fault, Option.some_or]
  | cons q qs ih =>
    obtain ⟨head, tail⟩ := List.forall_mem_cons.mp usable
    rw [List.cons_append, firstUnusable_cons, head, Option.none_or, ih tail]

/-- A length error comes first. -/
theorem checkRoleMap_of_bad_length {c : Config}
    (bad : c.roleMap.addressBits.length > 32 ∨ c.roleMap.dataBits.length ≠ 8) :
    checkRoleMap c = some (roleMapInvalid 0#16) := if_pos bad

/-- With the lengths right, a pin that repeats comes before one that is unusable. -/
theorem checkRoleMap_of_lengths {c : Config} (address : c.roleMap.addressBits.length ≤ 32)
    (data : c.roleMap.dataBits.length = 8) :
    checkRoleMap c = ((firstRepeat [] (rolePins c)).map fun p => roleMapInvalid (BitVec.ofInt 16 p)).or
      (firstUnusable c (rolePins c)) := by
  have short : ¬ (c.addrWidth > 32 ∨ c.roleMap.dataBits.length ≠ 8) := by
    rintro (long | other)
    · exact absurd address (Nat.not_le.mpr long)
    · exact other data
  rw [checkRoleMap, if_neg short]
  cases firstRepeat [] (rolePins c) with
  | none => rfl
  | some p => rfl

theorem checkRoleMap_of_repeat {c : Config} {before after : List VPin} {p : VPin}
    (address : c.roleMap.addressBits.length ≤ 32) (data : c.roleMap.dataBits.length = 8)
    (pins : rolePins c = before ++ p :: after) (nodup : before.Nodup) (repeated : p ∈ before) :
    checkRoleMap c = some (roleMapInvalid (BitVec.ofInt 16 p)) := by
  have first : firstRepeat [] (rolePins c) = some p := by
    rw [pins]
    exact firstRepeat_of_repeated nodup (fun _ _ => List.not_mem_nil) (.inl repeated) after
  rw [checkRoleMap_of_lengths address data, first, Option.map_some, Option.some_or]

theorem checkRoleMap_of_fault {c : Config} {before after : List VPin} {p : VPin} {r : Raise}
    (address : c.roleMap.addressBits.length ≤ 32) (data : c.roleMap.dataBits.length = 8)
    (pins : rolePins c = before ++ p :: after) (nodup : (rolePins c).Nodup)
    (usable : ∀ q ∈ before, pinFault c q = none) (fault : pinFault c p = some r) :
    checkRoleMap c = some r := by
  have apart : firstRepeat [] (rolePins c) = none :=
    firstRepeat_eq_none.mpr ⟨nodup, fun _ _ => List.not_mem_nil⟩
  rw [checkRoleMap_of_lengths address data, apart, Option.map_none, Option.none_or, pins]
  exact firstUnusable_of_fault usable fault after

/-- The registers of a latched check that passed. -/
theorem registers_of_check_passed {s : State} (latched : roleCheckLatched s = true)
    (passed : checkRoleMap s.cfg = none) : s.rmStatus = .ok ∧ s.rmErrPin = 0#16 ∧ s.rmErrSlot = noneByte := by
  rw [roleCheckLatched, passed] at latched
  exact of_decide_eq_true latched

/-- The registers of a latched check that failed. -/
theorem registers_of_check_failed {s : State} {r : Raise} (latched : roleCheckLatched s = true)
    (failed : checkRoleMap s.cfg = some r) :
    s.rmStatus = r.status ∧ s.rmErrPin = r.pin ∧ s.rmErrSlot = r.slot := by
  rw [roleCheckLatched, failed] at latched
  exact of_decide_eq_true latched

/-- Settles O6: reset ends `READY` with the check latched, and the check answers its first error: a length, a repeat,
then the fault of a pin. -/
theorem roleMapCheckAtReset : Obligations.RoleMapCheckAtReset := by
  intro c e rest wf quiet s reports usable
  obtain ⟨ready, status, pin, slot, prim, src, trace, latched⟩ := resetEndsReady c e rest wf quiet
  have error {r : Raise} (h : checkRoleMap c = some r) : reports r.status r.pin r.slot :=
    registers_of_check_failed latched h
  refine ⟨ready, trace, status, pin, slot, prim, src, fun bad => error (checkRoleMap_of_bad_length bad),
    fun address data => ⟨fun nodup mapped => ?_, fun before p after pins => ⟨fun nodup repeated => ?_,
      fun nodup mapped => ?_⟩⟩⟩
  · have faultless : ∀ q ∈ rolePins c, pinFault c q = none := fun q hq => pinFault_eq_none.mpr (mapped q hq)
    exact registers_of_check_passed latched (checkRoleMap_eq_none.mpr ⟨address, data, nodup, faultless⟩)
  · exact error (checkRoleMap_of_repeat address data pins nodup repeated)
  · have faultless : ∀ q ∈ before, pinFault c q = none := fun q hq => pinFault_eq_none.mpr (mapped q hq)
    have fails {r : Raise} (fault : pinFault c p = some r) : reports r.status r.pin r.slot :=
      error (checkRoleMap_of_fault address data pins nodup faultless fault)
    exact ⟨fun unmapped => fails (pinFault_eq_some.mpr (.inl ⟨unmapped, rfl⟩)),
      fun k l found unbound => fails (pinFault_eq_some.mpr (.inr ⟨k, l, found, unbound, rfl⟩))⟩

/-! ### The trace of reset -/

/-- Every event is an `init()`'s. -/
def InitsOnly (evs : List Event) : Prop := ∀ e ∈ evs, ∃ k r, e = .dev k .init r

theorem InitsOnly.devicesOnly {evs : List Event} (h : InitsOnly evs) : DevicesOnly evs := fun e he =>
  have ⟨k, r, same⟩ := h e he
  ⟨k, .init, r, same⟩

theorem initsOnly_initSlots (slots : List Nat) (e : Env) : InitsOnly (initSlots slots e).events := by
  induction slots generalizing e with
  | nil => exact nofun
  | cons k ks ih =>
    rw [initSlots]
    split
    · exact List.forall_mem_singleton.mpr ⟨k, _, rfl⟩
    · exact List.forall_mem_cons.mpr ⟨⟨k, _, rfl⟩, ih _⟩

/-- Reset logs no event but `init()`s, however it ends (R320). -/
theorem initsOnly_boot (c : Config) (e : Env) : InitsOnly (boot c e).trace := by
  rcases boot_cases c e with
    ⟨_, _, booted⟩ | ⟨_, _, rfl, ⟨_, _, booted⟩ | ⟨_, _, booted⟩ | ⟨_, _, _, booted⟩⟩ <;> rw [booted]
  · exact nofun
  · exact initsOnly_initSlots _ _
  · exact initsOnly_initSlots _ _
  · exact initsOnly_initSlots _ _

/-- An `init()` has no effect on its device's port, completed or not (R71, R73). -/
theorem InitsOnly.replayPorts_eq {evs : List Event} (h : InitsOnly evs) (ports : PerSlot Port) :
    replayPorts ports evs = ports := by
  induction evs with
  | nil => rfl
  | cons e es ih =>
    obtain ⟨⟨k, r, rfl⟩, rest⟩ := List.forall_mem_cons.mp h
    have unchanged : replayPorts ports (.dev k .init r :: es) = replayPorts (ports.set k (ports.get k)) es := by
      cases r <;> rfl
    rw [unchanged, PerSlot.set_get_self, ih rest]

/-- The events of primitives number no phase and set no record. -/
theorem DevicesOnly.numbers {evs : List Event} (h : DevicesOnly evs) (n : Nat)
    (last : Option (Word × Byte × Direction)) : numberedFrom n evs = true ∧ lastRecordOf last evs = last := by
  induction evs with
  | nil => exact ⟨rfl, rfl⟩
  | cons e es ih =>
    obtain ⟨⟨k, p, r, rfl⟩, rest⟩ := List.forall_mem_cons.mp h
    exact ih rest

/-- The events of primitives neither write the memory nor read it. -/
theorem DevicesOnly.replays {evs : List Event} (h : DevicesOnly evs) (m : Memory) :
    replayMem m evs = m ∧ readsAgree m evs = true := by
  induction evs with
  | nil => exact ⟨rfl, rfl⟩
  | cons e es ih =>
    obtain ⟨⟨k, p, r, rfl⟩, rest⟩ := List.forall_mem_cons.mp h
    exact ih rest

/-- The worker is at its loop's top and the gate is free (R324). -/
theorem resetWith_arbitrated (c : Config) (e : Env) : Arbitrated (State.resetWith c e) :=
  .of_outside rfl rfl rfl (fun _ => ⟨rfl, rfl⟩) (fun _ => rfl)

/-- Settles O57: the trace of reset holds `init()`s only, which none of the invariants follows, and the registers and
ports are at their first values. -/
theorem invariantsAtReset : Obligations.InvariantsAtReset := by
  intro c e s
  have inits : InitsOnly s.trace := initsOnly_boot c e
  have devices := inits.devicesOnly
  obtain ⟨noPhase, noRecord, _⟩ := devices.counts
  obtain ⟨numbered, last⟩ := devices.numbers 0 none
  obtain ⟨mem, reads⟩ := devices.replays (Memory.ofCells c.mem0)
  have seq : s.seq = BitVec.ofNat 32 (phaseCount s.trace) := by rw [noPhase]; rfl
  have txnCount : s.txnCount = BitVec.ofNat 32 (recordCount s.trace) := by rw [noRecord]; rfl
  have untouched : unboundUntouched s = true :=
    unboundUntouched_iff.mpr fun _ hk _ => PerSlot.get_tabulate _ hk
  exact ⟨arbitrated_iff.mpr (resetWith_arbitrated c e), followPhases_dev _ devices, seq, numbered, txnCount, last,
    rfl, mem.symm, reads, (inits.replayPorts_eq _).symm, untouched⟩

end Sys2Proof.Machine
